-- ==== Sys2Proof/Word.lean ====
section
/-! DEFINITION. The word types of the BFC: bytes and command/response words (`00_scope.md` R7, R8). -/

namespace Sys2Proof

/-- A data byte: an unsigned 8-bit value, 0 to 255 (`00_scope.md` R7 `BYTE_W`, R9). -/
abbrev Byte := BitVec 8

/-- A command or response word (`00_scope.md` R7 `CMD_W`, `RSP_W`; `30_encoding.md` R60). It is an
indivisible 32-bit number with no byte order of its own (`20_memory.md` R45). -/
abbrev Word := BitVec 32

end Sys2Proof
end

