-- ==== Sys2Proof/Syntax.lean ====
section
/-! DEFINITION. The 31 commands of `30_encoding.md` R70, one constructor per row of the opcode table, with the
operand lanes its format gives it (R62). Operands stand in rising lane order. -/

namespace Sys2Proof

/-- One command with its operands as they travel in the command word. A named operand is a whole lane, except
the fields `lo`, `w` of formats X and I and the 14-bit size of format S (`30_encoding.md` R62). -/
inductive Instr where
  /-- `NOP` (`45_system.md` R180). -/
  | nop
  /-- `STRD`: read STATUS (`45_system.md` R181). -/
  | strd
  /-- `STCLR mask`: clear the STATUS flags named by `f0` (`45_system.md` R182). -/
  | stclr (mask : Byte)
  /-- `CTRLRD`: read CTRL (`45_system.md` R183). -/
  | ctrlrd
  /-- `CTRLWR value`: write CTRL with `f0` (`45_system.md` R184). -/
  | ctrlwr (value : Byte)
  /-- `BFX byte, lo, w`: extract a field (`40_generic_bitfield.md` R92). -/
  | bfx (byte : Byte) (lo w : BitVec 4)
  /-- `BFI base, lo, w, v`: insert a field (`40_generic_bitfield.md` R93). -/
  | bfi (base : Byte) (lo w : BitVec 4) (v : Byte)
  /-- `UNPK.CURVE byte` (`41_unpack.md` R104). -/
  | unpkCurve (byte : Byte)
  /-- `UNPK.DTRS byte` (`41_unpack.md` R105). -/
  | unpkDtrs (byte : Byte)
  /-- `UNPK.SENS byte` (`41_unpack.md` R106). -/
  | unpkSens (byte : Byte)
  /-- `UNPK.OSC byte` (`41_unpack.md` R107). -/
  | unpkOsc (byte : Byte)
  /-- `UNPK.LFO byte` (`41_unpack.md` R108). -/
  | unpkLfo (byte : Byte)
  /-- `UNPK.FBKS byte` (`41_unpack.md` R109). -/
  | unpkFbks (byte : Byte)
  /-- `UNPK.ALG byte` (`41_unpack.md` R110). -/
  | unpkAlg (byte : Byte)
  /-- `UNPK.TRN byte` (`41_unpack.md` R111). -/
  | unpkTrn (byte : Byte)
  /-- `UNPK.U99 byte` (`41_unpack.md` R112). -/
  | unpkU99 (byte : Byte)
  /-- `UNPK.SIZE first, second`: `second` is `f0`, `first` is `f1` (`43_size_field.md` R152). -/
  | unpkSize (second first : Byte)
  /-- `PACK.CURVE`: `right` is `f0`, `left` is `f1` (`42_pack.md` R131). -/
  | packCurve (right left : Byte)
  /-- `PACK.DTRS`: `rs` is `f0`, `detune` is `f1` in two's complement (`42_pack.md` R132). -/
  | packDtrs (rs detune : Byte)
  /-- `PACK.SENS`: `ams` is `f0`, `vs` is `f1` (`42_pack.md` R133). -/
  | packSens (ams vs : Byte)
  /-- `PACK.OSC`: `mode` is `f0`, `coarse` is `f1` (`42_pack.md` R134). -/
  | packOsc (mode coarse : Byte)
  /-- `PACK.LFO`: `ks` is `f0`, `wave` is `f1`, `pms` is `f2` (`42_pack.md` R135). -/
  | packLfo (ks wave pms : Byte)
  /-- `PACK.FBKS`: `fb` is `f0`, `oks` is `f1` (`42_pack.md` R136). -/
  | packFbks (fb oks : Byte)
  /-- `PACK.ALG id` (`42_pack.md` R137). -/
  | packAlg (id : Byte)
  /-- `PACK.TRN transpose`, in two's complement (`42_pack.md` R138). -/
  | packTrn (transpose : Byte)
  /-- `PACK.U99 v` (`42_pack.md` R139). -/
  | packU99 (v : Byte)
  /-- `PACK.SIZE size` (`43_size_field.md` R153). -/
  | packSize (size : BitVec 14)
  /-- `CKCLR`: start a checksum (`44_checksum.md` R160). -/
  | ckclr
  /-- `CKADD byte`: accumulate one byte (`44_checksum.md` R161). -/
  | ckadd (byte : Byte)
  /-- `CKRD`: read the trailer (`44_checksum.md` R163). -/
  | ckrd
  /-- `CKCMP byte`: compare a trailer (`44_checksum.md` R165). -/
  | ckcmp (byte : Byte)
deriving DecidableEq, Repr

end Sys2Proof
end

