-- ==== Sys2Proof/WellFormed.lean ====
section
/-! DEFINITION. Which command terms are legal commands: the operand conditions that the operand widths of
`Instr` do not already enforce (`30_encoding.md` R62). -/

namespace Sys2Proof

/-- A command whose operands satisfy the conditions of `30_encoding.md` R62: STCLR has `f0[7:3] = 0`, CTRLWR
has `f0[7:1] = 0`, and BFX and BFI have a field of width 1 to 8 that ends inside the byte
(`40_generic_bitfield.md` R91). Every other operand value is legal (`42_pack.md` R142). -/
def Instr.wellFormed : Instr → Bool
  | .stclr mask => decide (mask.toNat < 8)
  | .ctrlwr value => decide (value.toNat < 2)
  | .bfx _ lo w | .bfi _ lo w _ => decide (1 ≤ w.toNat ∧ lo.toNat + w.toNat ≤ 8)
  | .nop | .strd | .ctrlrd | .unpkCurve _ | .unpkDtrs _ | .unpkSens _ | .unpkOsc _ | .unpkLfo _ | .unpkFbks _
  | .unpkAlg _ | .unpkTrn _ | .unpkU99 _ | .unpkSize _ _ | .packCurve _ _ | .packDtrs _ _ | .packSens _ _
  | .packOsc _ _ | .packLfo _ _ _ | .packFbks _ _ | .packAlg _ | .packTrn _ | .packU99 _ | .packSize _ | .ckclr
  | .ckadd _ | .ckrd | .ckcmp _ => true

end Sys2Proof
end

