-- ==== Sys2Proof/Decode.lean ====
section
/-! DEFINITION. The decoder of command words and its inverse, written from the encoding tables R61, R62 and R70
of `30_encoding.md`; and the same decoding as R71 words it, a search of the table of matches and masks. -/

namespace Sys2Proof

/-- Why a word is an illegal command. The three causes of `60_exceptions.md` R212; all three have one outcome,
so the name is the model's way to reject by name and no state depends on it (log entry 10). -/
inductive Illegal where
  /-- `op` is one of the 225 reserved values (`30_encoding.md` R72). -/
  | reservedOpcode
  /-- A 1 in a bit that the operand format says must be 0 (`30_encoding.md` R73). -/
  | reservedBit
  /-- The `lo`, `w` pair of BFX or BFI is not a field inside the byte (`40_generic_bitfield.md` R91). -/
  | geometry
deriving DecidableEq, Repr

/-! ### The fields of the command word (R61, R62) -/

/-- `op = cmd[31:24]` (`30_encoding.md` R61). -/
def opOf (c : Word) : Byte := c.extractLsb' 24 8
/-- `f2 = cmd[23:16]` (`30_encoding.md` R61). -/
def lane2 (c : Word) : Byte := c.extractLsb' 16 8
/-- `f1 = cmd[15:8]` (`30_encoding.md` R61). -/
def lane1 (c : Word) : Byte := c.extractLsb' 8 8
/-- `f0 = cmd[7:0]` (`30_encoding.md` R61). -/
def lane0 (c : Word) : Byte := c.extractLsb' 0 8
/-- `w = cmd[15:12]` of formats X and I (`30_encoding.md` R62). -/
def widthOf (c : Word) : BitVec 4 := c.extractLsb' 12 4
/-- `lo = cmd[11:8]` of formats X and I (`30_encoding.md` R62). -/
def positionOf (c : Word) : BitVec 4 := c.extractLsb' 8 4
/-- `size = cmd[13:0]` of format S (`30_encoding.md` R62). -/
def sizeOf14 (c : Word) : BitVec 14 := c.extractLsb' 0 14

/-- The legal geometries of `40_generic_bitfield.md` R91: `0 <= lo <= 7`, `1 <= w <= 8`, `lo + w <= 8`. -/
def legalGeometry (lo w : BitVec 4) : Bool :=
  decide (lo.toNat ≤ 7 ∧ 1 ≤ w.toNat ∧ w.toNat ≤ 8 ∧ lo.toNat + w.toNat ≤ 8)

/-! ### The operand formats (R62): each checks its must-be-0 bits and hands on its lanes -/

/-- Reject a command one of whose must-be-0 bits is 1 (`30_encoding.md` R73). -/
def requireZero (ok : Bool) (i : Instr) : Except Illegal Instr :=
  if ok then .ok i else .error .reservedBit

/-- Format Z: `cmd[23:0]` must be 0. -/
def formatZ (c : Word) (i : Instr) : Except Illegal Instr :=
  requireZero (c.extractLsb' 0 24 == 0#24) i

/-- Format B: `cmd[23:8]` must be 0; one byte in `f0`. -/
def formatB (c : Word) (build : Byte → Instr) : Except Illegal Instr :=
  requireZero (c.extractLsb' 8 16 == 0#16) (build (lane0 c))

/-- Format B of STCLR and CTRLWR, whose byte must also be below `bound` (`45_system.md` R182, R184). -/
def formatBelow (c : Word) (bound : Nat) (build : Byte → Instr) : Except Illegal Instr :=
  requireZero (c.extractLsb' 8 16 == 0#16 && decide ((lane0 c).toNat < bound)) (build (lane0 c))

/-- Format BB: `cmd[23:16]` must be 0; bytes in `f0` and `f1`. -/
def formatBB (c : Word) (build : Byte → Byte → Instr) : Except Illegal Instr :=
  requireZero (lane2 c == 0#8) (build (lane0 c) (lane1 c))

/-- Format BBB: bytes in all three lanes, no reserved bit. -/
def formatBBB (c : Word) (build : Byte → Byte → Byte → Instr) : Except Illegal Instr :=
  .ok (build (lane0 c) (lane1 c) (lane2 c))

/-- Format S: `cmd[23:14]` must be 0; a 14-bit size. -/
def formatS (c : Word) (build : BitVec 14 → Instr) : Except Illegal Instr :=
  requireZero (c.extractLsb' 14 10 == 0#10) (build (sizeOf14 c))

/-- Reject an illegal field geometry (`40_generic_bitfield.md` R91). -/
def requireGeometry (c : Word) (i : Instr) : Except Illegal Instr :=
  if legalGeometry (positionOf c) (widthOf c) then .ok i else .error .geometry

/-- Format X: `cmd[23:16]` must be 0; `lo`, `w` and a byte in `f0`. -/
def formatX (c : Word) (build : Byte → BitVec 4 → BitVec 4 → Instr) : Except Illegal Instr :=
  if lane2 c == 0#8 then requireGeometry c (build (lane0 c) (positionOf c) (widthOf c)) else .error .reservedBit

/-- Format I: `lo`, `w`, a base byte in `f0` and a value in `f2`. -/
def formatI (c : Word) (build : Byte → BitVec 4 → BitVec 4 → Byte → Instr) : Except Illegal Instr :=
  requireGeometry c (build (lane0 c) (positionOf c) (widthOf c) (lane2 c))

/-- Decoding: a total function of the command word and of nothing else (`30_encoding.md` R71). -/
def decode (c : Word) : Except Illegal Instr :=
  match (opOf c).toNat with
  | 0x00 => formatZ c .nop
  | 0x01 => formatZ c .strd
  | 0x02 => formatBelow c 8 .stclr
  | 0x03 => formatZ c .ctrlrd
  | 0x04 => formatBelow c 2 .ctrlwr
  | 0x08 => formatX c .bfx
  | 0x09 => formatI c .bfi
  | 0x10 => formatB c .unpkCurve
  | 0x11 => formatB c .unpkDtrs
  | 0x12 => formatB c .unpkSens
  | 0x13 => formatB c .unpkOsc
  | 0x14 => formatB c .unpkLfo
  | 0x15 => formatB c .unpkFbks
  | 0x16 => formatB c .unpkAlg
  | 0x17 => formatB c .unpkTrn
  | 0x18 => formatB c .unpkU99
  | 0x19 => formatBB c .unpkSize
  | 0x20 => formatBB c .packCurve
  | 0x21 => formatBB c .packDtrs
  | 0x22 => formatBB c .packSens
  | 0x23 => formatBB c .packOsc
  | 0x24 => formatBBB c .packLfo
  | 0x25 => formatBB c .packFbks
  | 0x26 => formatB c .packAlg
  | 0x27 => formatB c .packTrn
  | 0x28 => formatB c .packU99
  | 0x29 => formatS c .packSize
  | 0x30 => formatZ c .ckclr
  | 0x31 => formatB c .ckadd
  | 0x32 => formatZ c .ckrd
  | 0x33 => formatB c .ckcmp
  | _ => .error .reservedOpcode

/-! ### The encoder -/

/-- The opcode column of `30_encoding.md` R70. -/
def opcode : Instr → Byte
  | .nop => 0x00 | .strd => 0x01 | .stclr _ => 0x02 | .ctrlrd => 0x03 | .ctrlwr _ => 0x04
  | .bfx _ _ _ => 0x08 | .bfi _ _ _ _ => 0x09
  | .unpkCurve _ => 0x10 | .unpkDtrs _ => 0x11 | .unpkSens _ => 0x12 | .unpkOsc _ => 0x13 | .unpkLfo _ => 0x14
  | .unpkFbks _ => 0x15 | .unpkAlg _ => 0x16 | .unpkTrn _ => 0x17 | .unpkU99 _ => 0x18 | .unpkSize _ _ => 0x19
  | .packCurve _ _ => 0x20 | .packDtrs _ _ => 0x21 | .packSens _ _ => 0x22 | .packOsc _ _ => 0x23
  | .packLfo _ _ _ => 0x24 | .packFbks _ _ => 0x25 | .packAlg _ => 0x26 | .packTrn _ => 0x27 | .packU99 _ => 0x28
  | .packSize _ => 0x29
  | .ckclr => 0x30 | .ckadd _ => 0x31 | .ckrd => 0x32 | .ckcmp _ => 0x33

/-- The operand part `cmd[23:0]` of a command (`30_encoding.md` R62); a lane the format does not use is 0. -/
def operands : Instr → BitVec 24
  | .nop | .strd | .ctrlrd | .ckclr | .ckrd => 0#24
  | .stclr b | .ctrlwr b | .unpkCurve b | .unpkDtrs b | .unpkSens b | .unpkOsc b | .unpkLfo b | .unpkFbks b
  | .unpkAlg b | .unpkTrn b | .unpkU99 b | .packAlg b | .packTrn b | .packU99 b | .ckadd b | .ckcmp b => 0#16 ++ b
  | .unpkSize f0 f1 | .packCurve f0 f1 | .packDtrs f0 f1 | .packSens f0 f1 | .packOsc f0 f1 | .packFbks f0 f1 =>
    0#8 ++ f1 ++ f0
  | .packLfo f0 f1 f2 => f2 ++ f1 ++ f0
  | .packSize size => 0#10 ++ size
  | .bfx f0 lo w => 0#8 ++ w ++ lo ++ f0
  | .bfi f0 lo w f2 => f2 ++ w ++ lo ++ f0

/-- The command word of a command (`30_encoding.md` R61). -/
def encode (i : Instr) : Word := opcode i ++ operands i

/-! ### The decoder of R71, word for word -/

/-- One row of the table of `30_encoding.md` R70: `pattern` is its `match` column, `build` its operand lanes. -/
structure TableRow where
  pattern : Word
  mask : Word
  build : Word → Instr

/-- The 31 rows of `30_encoding.md` R70, in the table's order. -/
def tableRows : List TableRow :=
  [ ⟨0x00000000, 0xFFFFFFFF, fun _ => .nop⟩,
    ⟨0x01000000, 0xFFFFFFFF, fun _ => .strd⟩,
    ⟨0x02000000, 0xFFFFFFF8, fun c => .stclr (lane0 c)⟩,
    ⟨0x03000000, 0xFFFFFFFF, fun _ => .ctrlrd⟩,
    ⟨0x04000000, 0xFFFFFFFE, fun c => .ctrlwr (lane0 c)⟩,
    ⟨0x08000000, 0xFFFF0800, fun c => .bfx (lane0 c) (positionOf c) (widthOf c)⟩,
    ⟨0x09000000, 0xFF000800, fun c => .bfi (lane0 c) (positionOf c) (widthOf c) (lane2 c)⟩,
    ⟨0x10000000, 0xFFFFFF00, fun c => .unpkCurve (lane0 c)⟩,
    ⟨0x11000000, 0xFFFFFF00, fun c => .unpkDtrs (lane0 c)⟩,
    ⟨0x12000000, 0xFFFFFF00, fun c => .unpkSens (lane0 c)⟩,
    ⟨0x13000000, 0xFFFFFF00, fun c => .unpkOsc (lane0 c)⟩,
    ⟨0x14000000, 0xFFFFFF00, fun c => .unpkLfo (lane0 c)⟩,
    ⟨0x15000000, 0xFFFFFF00, fun c => .unpkFbks (lane0 c)⟩,
    ⟨0x16000000, 0xFFFFFF00, fun c => .unpkAlg (lane0 c)⟩,
    ⟨0x17000000, 0xFFFFFF00, fun c => .unpkTrn (lane0 c)⟩,
    ⟨0x18000000, 0xFFFFFF00, fun c => .unpkU99 (lane0 c)⟩ ] ++
  [ ⟨0x19000000, 0xFFFF0000, fun c => .unpkSize (lane0 c) (lane1 c)⟩,
    ⟨0x20000000, 0xFFFF0000, fun c => .packCurve (lane0 c) (lane1 c)⟩,
    ⟨0x21000000, 0xFFFF0000, fun c => .packDtrs (lane0 c) (lane1 c)⟩,
    ⟨0x22000000, 0xFFFF0000, fun c => .packSens (lane0 c) (lane1 c)⟩,
    ⟨0x23000000, 0xFFFF0000, fun c => .packOsc (lane0 c) (lane1 c)⟩,
    ⟨0x24000000, 0xFF000000, fun c => .packLfo (lane0 c) (lane1 c) (lane2 c)⟩,
    ⟨0x25000000, 0xFFFF0000, fun c => .packFbks (lane0 c) (lane1 c)⟩,
    ⟨0x26000000, 0xFFFFFF00, fun c => .packAlg (lane0 c)⟩,
    ⟨0x27000000, 0xFFFFFF00, fun c => .packTrn (lane0 c)⟩,
    ⟨0x28000000, 0xFFFFFF00, fun c => .packU99 (lane0 c)⟩,
    ⟨0x29000000, 0xFFFFC000, fun c => .packSize (sizeOf14 c)⟩,
    ⟨0x30000000, 0xFFFFFFFF, fun _ => .ckclr⟩,
    ⟨0x31000000, 0xFFFFFF00, fun c => .ckadd (lane0 c)⟩,
    ⟨0x32000000, 0xFFFFFFFF, fun _ => .ckrd⟩,
    ⟨0x33000000, 0xFFFFFF00, fun c => .ckcmp (lane0 c)⟩ ]

/-- A word matches a row when `(c & mask) = match` (`30_encoding.md` R70). -/
def TableRow.fits (r : TableRow) (c : Word) : Bool := c &&& r.mask == r.pattern

/-- The geometry condition of `30_encoding.md` R71: only BFX and BFI have one. -/
def geometryOk : Instr → Bool
  | .bfx _ lo w => legalGeometry lo w
  | .bfi _ lo w _ => legalGeometry lo w
  | _ => true

/-- The decoding of `30_encoding.md` R71 as the rule words it: the one row that matches, then the geometry of
BFX and BFI; `none` is the rule's Illegal. That `decode` is the same function is a statement for the provers. -/
def decodeByTable (c : Word) : Option Instr :=
  match tableRows.filter (fun r => r.fits c) with
  | [] => none
  | r :: _ => if geometryOk (r.build c) then some (r.build c) else none

/-! ### The host's question about one table word -/

/-- The command word made of the low `nbits` bits of `w`, every higher bit 0. The opcode table's bits are those
of the one 32-bit word, so no byte layout is involved (`20_memory.md` R45). -/
def tableWord (nbits w : Nat) : Word := BitVec.ofNat 32 (w % 2 ^ nbits)

/-- The command the decoder reads from a command whose table bits are `w`; `none` where it refuses, and where
`nbits` is more than the one length a command has (`30_encoding.md` R60). -/
def decodeTableWord (nbits w : Nat) : Option Instr :=
  if nbits ≤ 32 then (decode (tableWord nbits w)).toOption else none

end Sys2Proof
end

