-- ==== Sys2Proof/Machine/State.lean ====
section
/-! DEFINITION. The state of one BFC instance: the 12 bits of `10_state.md` and, at the level of whole words, the
two channels and the reset input of `20_memory.md` R41. -/

namespace Sys2Proof.Machine

/-- What the host can do at the ports of `20_memory.md` R41, at the level of whole words. -/
inductive HostAction where
  /-- Offer a command word on `cmd_data`; the block takes it and executes it. -/
  | command (word : Word)
  /-- Accept the oldest response word offered on `rsp_data`. -/
  | takeResponse
  /-- Assert `rst` (`70_reset_and_hazards.md` R230). -/
  | reset
deriving DecidableEq, Repr

/-- The three bits of `STATUS` that exist (`10_state.md` R23); bits 7:3 read as 0 and have no storage. -/
structure StatusReg where
  /-- Bit 0 `ERR`, sticky: a range error, or an enforced checksum mismatch. -/
  err : Bool
  /-- Bit 1 `CKBAD`, sticky: a checksum mismatch. -/
  ckbad : Bool
  /-- Bit 2 `ILL`, sticky: an illegal command. -/
  ill : Bool
deriving DecidableEq, Repr

/-- The one bit of `CTRL` that exists (`10_state.md` R27); bits 7:1 read as 0 and have no storage. -/
structure CtrlReg where
  /-- Bit 0 `CKENF`: a checksum mismatch also sets `STATUS.ERR`. -/
  ckenf : Bool
deriving DecidableEq, Repr

/-- The state of one instance. The spec's own state is `csum`, `status`, `ctrl` (`10_state.md` R23, R27, R28,
R31) and the response channel `responses` (`20_memory.md` R41). The other fields are the model's: the host's
side of the channels and the bookkeeping index of `10_state.md` R22 (log entries 2, 3 and 5). -/
structure State where
  /-- `CSUM`, the checksum accumulator (`10_state.md` R28). -/
  csum : Byte
  /-- `STATUS` (`10_state.md` R23). -/
  status : StatusReg
  /-- `CTRL` (`10_state.md` R27). -/
  ctrl : CtrlReg
  /-- Responses produced since reset and not yet taken by the host, oldest first (`20_memory.md` R42). -/
  responses : List Word
  /-- MODEL: responses the host has taken since reset, oldest first. -/
  received : List Word
  /-- MODEL: what the host does next, oldest first. -/
  pending : List HostAction
  /-- MODEL: how many commands have been taken since reset (`10_state.md` R22). -/
  index : Nat
deriving DecidableEq, Repr

/-- The block right after reset (`10_state.md` R32, `70_reset_and_hazards.md` R230): every bit 0, no response
waiting. Nothing is pending: commands come from the host (log entry 6). -/
def State.reset : State where
  csum := 0x00
  status := ⟨false, false, false⟩
  ctrl := ⟨false⟩
  responses := []
  received := []
  pending := []
  index := 0

/-- Why the machine can stop with a fault: never. The block never traps and never stops (`60_exceptions.md`
R210; `70_reset_and_hazards.md` R241), so the type has no constructor and no step can answer a fault. That is
safe: nothing is hidden behind a fault. -/
inductive Fault
deriving DecidableEq, Repr

/-- Why the model can refuse a command. -/
inductive Refusal where
  /-- Raised by an arm of `exec` for a command the model has no meaning for; no arm raises it, since every
  command has its meaning. Safe: a refusal ends the run and proves nothing false. -/
  | notModelled (mnemonic : String)
deriving DecidableEq, Repr

/-- The outcome of a step or of a command's meaning. -/
abbrev Result := Host.Outcome State Fault Refusal

end Sys2Proof.Machine
end

