-- ==== Sys2Proof/Machine/Flags.lean ====
section
/-! DEFINITION. Reading and changing STATUS and CTRL: the only operations that do (`10_state.md` R23, R27). -/

namespace Sys2Proof.Machine

/-- `STATUS` read as a byte: `ERR`, `CKBAD`, `ILL` in bits 0, 1, 2; bits 7:3 read as 0 (`10_state.md` R23). -/
def StatusReg.byte (r : StatusReg) : Byte :=
  0#5 ++ BitVec.ofBool r.ill ++ BitVec.ofBool r.ckbad ++ BitVec.ofBool r.err

/-- `CTRL` read as a byte: `CKENF` in bit 0; bits 7:1 read as 0 (`10_state.md` R27). -/
def CtrlReg.byte (r : CtrlReg) : Byte := 0#7 ++ BitVec.ofBool r.ckenf

/-- Set the sticky `STATUS.ERR` when the condition holds; never cleared here (`41_unpack.md` R103). -/
def State.raiseErr (cond : Bool) (s : State) : State :=
  { s with status := { s.status with err := s.status.err || cond } }

/-- Set the sticky `STATUS.CKBAD` when the condition holds (`44_checksum.md` R165). -/
def State.raiseCkbad (cond : Bool) (s : State) : State :=
  { s with status := { s.status with ckbad := s.status.ckbad || cond } }

/-- Set the sticky `STATUS.ILL` (`60_exceptions.md` R212). -/
def State.raiseIll (s : State) : State := { s with status := { s.status with ill := true } }

/-- Clear the flags of STATUS whose mask bit is 1 (`45_system.md` R182: `STATUS & ~f0 & 0x07`). -/
def State.clearStatus (mask : Byte) (s : State) : State :=
  { s with status :=
    { err := s.status.err && !mask.getLsbD 0
      ckbad := s.status.ckbad && !mask.getLsbD 1
      ill := s.status.ill && !mask.getLsbD 2 } }

/-- Write CTRL as a whole (`45_system.md` R184). -/
def State.writeCtrl (value : Byte) (s : State) : State := { s with ctrl := { ckenf := value.getLsbD 0 } }

end Sys2Proof.Machine
end

