-- ==== Sys2Proof/Machine/Ops.lean ====
section
/-! DEFINITION. The shared operations: the field primitives of `00_scope.md` R10, the response of `30_encoding.md`
R63, and the illegal-command outcome of `60_exceptions.md` R212, which stands in place of trap entry (R217). -/

namespace Sys2Proof.Machine

/-! ### Field primitives and narrow numbers (R9, R10) -/

/-- `2^w - 1` as a byte, for a width of at most 8. -/
def onesMask (w : Nat) : Byte := BitVec.ofNat 8 (2 ^ w - 1)

/-- `ext(b, lo, w) = (b >> lo) & (2^w - 1)` (`00_scope.md` R10); the shift is logical (R9). -/
def ext (b : Byte) (lo w : Nat) : Byte := (b >>> lo) &&& onesMask w

/-- `ins(b, lo, w, v)`: replace the field by the low `w` bits of `v`, keep the rest (`00_scope.md` R10). -/
def ins (b : Byte) (lo w : Nat) (v : Byte) : Byte := (b &&& ~~~(onesMask w <<< lo)) ||| ((v &&& onesMask w) <<< lo)

/-- `clamp(v, lo, hi)`: the nearest bound when outside (`00_scope.md` R10). -/
def clamp (v lo hi : Int) : Int := if v < lo then lo else if v > hi then hi else v

/-- `oor(v, lo, hi)`: out of range (`00_scope.md` R10). -/
def oor (v lo hi : Int) : Bool := decide (v < lo ∨ v > hi)

/-- `tc8(i) = i mod 256` (`00_scope.md` R9). -/
def tc8 (i : Int) : Byte := BitVec.ofInt 8 i

/-- `sext_8(v)`: the lane read as two's complement (`00_scope.md` R9). -/
def sext8 (v : Byte) : Int := v.toInt

/-- `zext_8(v)`: the lane read as unsigned (`00_scope.md` R9). -/
def zext8 (v : Byte) : Int := (v.toNat : Int)

/-! ### The response (R63) -/

/-- The arguments of `respond` (`00_scope.md` R11); an argument left out is 0. -/
structure Response where
  r0 : Byte := 0
  r1 : Byte := 0
  r2 : Byte := 0
  e0 : Bool := false
  e1 : Bool := false
  e2 : Bool := false
  ckm : Bool := false
deriving DecidableEq, Repr

/-- The response word of a legal command (`30_encoding.md` R63): `ILL` is 0, bits 30:28 are 0. -/
def Response.word (r : Response) : Word :=
  0#4 ++ BitVec.ofBool r.ckm ++ BitVec.ofBool r.e2 ++ BitVec.ofBool r.e1 ++ BitVec.ofBool r.e0 ++ r.r2 ++ r.r1 ++ r.r0

/-- The response word of an illegal command (`60_exceptions.md` R212). -/
def illegalWord : Word := 0x80000000

/-- Offer one more response word, and count the command it answers (`20_memory.md` R42, `10_state.md` R22). -/
def State.offer (w : Word) (s : State) : State := { s with responses := s.responses ++ [w], index := s.index + 1 }

/-- `respond(...)` (`00_scope.md` R11): the one response of a legal command. -/
def State.respond (r : Response) (s : State) : State := s.offer r.word

/-- `illegal()` (`00_scope.md` R11, `60_exceptions.md` R212): `STATUS.ILL <- 1`, response `0x80000000`, nothing
else changes. This is what the block does in place of trap entry (R217); nothing is saved, control goes nowhere. -/
def State.takeIllegal (s : State) : State := s.raiseIll.offer illegalWord

/-- Acknowledging conditions, in place of a return from a trap (`60_exceptions.md` R217): clear the named flags and
answer the new STATUS (`45_system.md` R182). -/
def State.acknowledge (mask : Byte) (s : State) : State :=
  let t := s.clearStatus mask
  t.respond { r0 := t.status.byte }

/-! ### The channels and the reset input (R41) -/

/-- Reset: the state of `10_state.md` R32; an untaken response is dropped and the numbering starts again
(`70_reset_and_hazards.md` R230). What the host does afterwards is not the block's. -/
def State.resetWith (rest : List HostAction) : State := { State.reset with pending := rest }

/-- The host takes the oldest response; with none offered, nothing is transferred (`20_memory.md` R41; log entry 3). -/
def State.deliver (s : State) : State :=
  match s.responses with
  | [] => s
  | w :: ws => { s with responses := ws, received := s.received ++ [w] }

/-- The host has done the first of its pending actions. -/
def State.proceed (rest : List HostAction) (s : State) : State := { s with pending := rest }

end Sys2Proof.Machine
end

