-- ==== Sys2Proof/Machine/Bitfield.lean ====
section
/-! DEFINITION. The generic extract and insert commands (`40_generic_bitfield.md`). -/

namespace Sys2Proof.Machine

/-- `BFX byte, lo, w` (`40_generic_bitfield.md` R92). -/
def execBfx (byte : Byte) (lo w : BitVec 4) (s : State) : Result :=
  .next (if legalGeometry lo w then s.respond { r0 := ext byte lo.toNat w.toNat } else s.takeIllegal)

/-- `BFI base, lo, w, v` (`40_generic_bitfield.md` R93). -/
def execBfi (base : Byte) (lo w : BitVec 4) (v : Byte) (s : State) : Result :=
  .next (if legalGeometry lo w then s.respond { r0 := ins base lo.toNat w.toNat v } else s.takeIllegal)

end Sys2Proof.Machine
end

