-- ==== Sys2Proof/Machine/Checksum.lean ====
section
/-! DEFINITION. The checksum commands (`44_checksum.md`). -/

namespace Sys2Proof.Machine

/-- The trailer `CSUM & 0x7F` (`44_checksum.md` R163, R165). -/
def State.trailer (s : State) : Byte := s.csum &&& 0x7F

/-- `CKCLR` (`44_checksum.md` R160). -/
def execCkclr (s : State) : Result := .next ({ s with csum := 0 }.respond {})

/-- `CKADD byte` (`44_checksum.md` R161): subtract the byte modulo 256 and answer the new CSUM. -/
def execCkadd (byte : Byte) (s : State) : Result := .next ({ s with csum := s.csum - byte }.respond { r0 := s.csum - byte })

/-- `CKRD` (`44_checksum.md` R163). -/
def execCkrd (s : State) : Result := .next (s.respond { r0 := s.trailer, r1 := s.csum })

/-- `CKCMP byte` (`44_checksum.md` R165): all 8 bits of the byte take part; a mismatch sets CKBAD, and ERR too when
CKENF is 1. -/
def execCkcmp (byte : Byte) (s : State) : Result :=
  .next (((s.raiseCkbad (byte != s.trailer)).raiseErr ((byte != s.trailer) && s.ctrl.ckenf)).respond
    { r0 := s.trailer, r1 := byte, ckm := byte != s.trailer })

end Sys2Proof.Machine
end

