-- ==== Sys2Proof/Config.lean ====
section
/-! DEFINITION. What one instance of the BFC fixes (`00_scope.md` R7). Every other parameter of R7 is a
fixed width and stands in the types. -/

namespace Sys2Proof

/-- `CURVE_LEFT_HIGH` (`00_scope.md` R7, `92_eei_decisions.md` D2): `true` puts the left curve in byte bits
[3:2] and the right curve in bits [1:0], `false` the reverse. The spec leaves the value open and forbids
guessing it, so it has no body here: whatever is proved holds for both values (`93_implementation_defined.md`
U1; log entry 1). -/
opaque Config.curveLeftHigh : Bool

end Sys2Proof
end

