-- ==== Sys2Proof/Machine/Operands.lean ====
section
/-! DEFINITION. The fields of the wire formats and their two directions: the field table R101 of `41_unpack.md`,
range validation (R103) and packing (`42_pack.md` R130). -/

namespace Sys2Proof.Machine

/-- One row of the field table `41_unpack.md` R101: bits, width, bias, valid internal range, and whether the lane
holds a two's-complement number (`30_encoding.md` R65). -/
structure Field where
  lo : Nat
  width : Nat
  bias : Int
  min : Int
  max : Int
  signed : Bool
deriving DecidableEq, Repr

/-- The raw value of the field in a byte (`41_unpack.md` R103). -/
def Field.raw (f : Field) (b : Byte) : Byte := ext b f.lo f.width

/-- The internal value: raw plus bias, an integer (`41_unpack.md` R103). -/
def Field.internal (f : Field) (b : Byte) : Int := zext8 (f.raw b) + f.bias

/-- `E_i`: the internal value is outside the valid range (`41_unpack.md` R103). -/
def Field.outOfRange (f : Field) (b : Byte) : Bool := oor (f.internal b) f.min f.max

/-- The clamped internal value (`41_unpack.md` R103). -/
def Field.value (f : Field) (b : Byte) : Int := clamp (f.internal b) f.min f.max

/-- The response lane: `tc8` of the value. For an unsigned field the value is in 0..255, where `tc8` is zero
extension (`41_unpack.md` R103; log entry 16). -/
def Field.lane (f : Field) (b : Byte) : Byte := tc8 (f.value b)

/-- A command lane read as the field's internal value: `sext_8` for detune and transpose, unsigned otherwise
(`30_encoding.md` R65, `47_arithmetic_laws_and_absent_families.md` R222). -/
def Field.operand (f : Field) (lane : Byte) : Int := if f.signed then sext8 lane else zext8 lane

/-- Put an internal value into the byte being built: remove the bias, keep the low `width` bits, place them
(`42_pack.md` R130). -/
def Field.place (f : Field) (lane acc : Byte) : Byte :=
  ins acc f.lo f.width (BitVec.ofInt 8 ((f.operand lane - f.bias) % 2 ^ f.width))

/-- The fields of one wire format by lane (`41_unpack.md` R101, column lane). -/
structure Format where
  field0 : Field
  field1 : Option Field
  field2 : Option Field
deriving DecidableEq, Repr

/-- The response lane of an optional field; an unused lane is 0 (`30_encoding.md` R63). -/
def optLane (f : Option Field) (b : Byte) : Byte :=
  match f with
  | none => 0
  | some f => f.lane b

/-- The range flag of an optional field; the flag of an unused lane is 0. -/
def optOutOfRange (f : Option Field) (b : Byte) : Bool :=
  match f with
  | none => false
  | some f => f.outOfRange b

/-- Packing of an optional field. -/
def optPlace (f : Option Field) (lane acc : Byte) : Byte :=
  match f with
  | none => acc
  | some f => f.place lane acc

/-- Unpack every field of a byte, each validated independently (`41_unpack.md` R103). -/
def Format.unpack (f : Format) (b : Byte) : Response where
  r0 := f.field0.lane b
  r1 := optLane f.field1 b
  r2 := optLane f.field2 b
  e0 := f.field0.outOfRange b
  e1 := optOutOfRange f.field1 b
  e2 := optOutOfRange f.field2 b

/-- Pack the fields, starting from a byte of zeros (`42_pack.md` R130, R141). -/
def Format.pack (f : Format) (v0 v1 v2 : Byte) : Byte :=
  optPlace f.field2 v2 (optPlace f.field1 v1 (f.field0.place v0 0))

/-- An unsigned field without bias. -/
def plainField (lo width : Nat) (max : Int) : Field := ⟨lo, width, 0, 0, max, false⟩

/-! ### The field table (`41_unpack.md` R101) -/

/-- CURVE: lane 0 is the right curve, lane 1 the left curve, wherever they sit (`30_encoding.md` R67). -/
def curveFormat (leftHigh : Bool) : Format :=
  ⟨plainField (if leftHigh then 0 else 2) 2 3, some (plainField (if leftHigh then 2 else 0) 2 3), none⟩
/-- DTRS: rate scaling, detune. -/
def dtrsFormat : Format := ⟨plainField 0 3 7, some ⟨3, 4, -7, -7, 7, true⟩, none⟩
/-- SENS: amplitude-mod sensitivity, velocity sensitivity. -/
def sensFormat : Format := ⟨plainField 0 2 3, some (plainField 2 6 7), none⟩
/-- OSC: oscillator mode, frequency coarse. -/
def oscFormat : Format := ⟨plainField 0 1 1, some (plainField 1 7 31), none⟩
/-- LFO: key sync, waveform, pitch-mod sensitivity. -/
def lfoFormat : Format := ⟨plainField 0 1 1, some (plainField 1 3 5), some (plainField 4 3 7)⟩
/-- FBKS: feedback, oscillator key sync. -/
def fbksFormat : Format := ⟨plainField 0 3 7, some (plainField 3 1 1), none⟩
/-- ALG: algorithm id, 1-based inside. -/
def algFormat : Format := ⟨⟨0, 5, 1, 1, 32, false⟩, none, none⟩
/-- TRN: transpose. -/
def trnFormat : Format := ⟨⟨0, 8, -24, -24, 24, true⟩, none, none⟩
/-- U99: a plain byte. -/
def u99Format : Format := ⟨plainField 0 8 99, none, none⟩

/-! ### The two shared bodies -/

/-- The body of every unpack command (`41_unpack.md` R100, R103): answer the lanes and flags, and set the sticky
`STATUS.ERR` when any flag is 1. -/
def unpackByte (f : Format) (b : Byte) (s : State) : State :=
  (s.raiseErr ((f.unpack b).e0 || (f.unpack b).e1 || (f.unpack b).e2)).respond (f.unpack b)

/-- The body of every pack command (`42_pack.md` R130): answer the byte; nothing is validated or written. -/
def packLanes (f : Format) (v0 v1 v2 : Byte) (s : State) : State := s.respond { r0 := f.pack v0 v1 v2 }

end Sys2Proof.Machine
end

