-- ==== Sys2Proof/Machine/Pack.lean ====
section
/-! DEFINITION. The pack commands (`42_pack.md`), each the shared body over its row of the field table. -/

namespace Sys2Proof.Machine

/-- `PACK.CURVE` (`42_pack.md` R131). -/
def execPackCurve (right left : Byte) (s : State) : Result :=
  .next (packLanes (curveFormat Config.curveLeftHigh) right left 0 s)

/-- `PACK.DTRS` (`42_pack.md` R132). -/
def execPackDtrs (rs detune : Byte) (s : State) : Result := .next (packLanes dtrsFormat rs detune 0 s)

/-- `PACK.SENS` (`42_pack.md` R133). -/
def execPackSens (ams vs : Byte) (s : State) : Result := .next (packLanes sensFormat ams vs 0 s)

/-- `PACK.OSC` (`42_pack.md` R134). -/
def execPackOsc (mode coarse : Byte) (s : State) : Result := .next (packLanes oscFormat mode coarse 0 s)

/-- `PACK.LFO` (`42_pack.md` R135). -/
def execPackLfo (ks wave pms : Byte) (s : State) : Result := .next (packLanes lfoFormat ks wave pms s)

/-- `PACK.FBKS` (`42_pack.md` R136). -/
def execPackFbks (fb oks : Byte) (s : State) : Result := .next (packLanes fbksFormat fb oks 0 s)

/-- `PACK.ALG` (`42_pack.md` R137). -/
def execPackAlg (id : Byte) (s : State) : Result := .next (packLanes algFormat id 0 0 s)

/-- `PACK.TRN` (`42_pack.md` R138). -/
def execPackTrn (transpose : Byte) (s : State) : Result := .next (packLanes trnFormat transpose 0 0 s)

/-- `PACK.U99` (`42_pack.md` R139). -/
def execPackU99 (v : Byte) (s : State) : Result := .next (packLanes u99Format v 0 0 s)

end Sys2Proof.Machine
end

