-- ==== Sys2Proof/Machine/SizeField.lean ====
section
/-! DEFINITION. The size-field commands (`43_size_field.md`). -/

namespace Sys2Proof.Machine

/-- The decoded size `(f1 << 7) | f0`, 15 bits: a shift and an OR, not an addition (`43_size_field.md` R151). -/
def decodedSize (second first : Byte) : BitVec 15 := (first.setWidth 15 <<< 7) ||| second.setWidth 15

/-- The record count `size / 128`, at most 255 (`43_size_field.md` R152). -/
def recordCount (size : BitVec 15) : Byte := BitVec.ofNat 8 (size.toNat / 128)

/-- `UNPK.SIZE first, second` (`43_size_field.md` R152): the size in `rsp[14:0]`, the count in `r2`. -/
def execUnpkSize (second first : Byte) (s : State) : Result :=
  .next (s.respond
    { r0 := (decodedSize second first).extractLsb' 0 8
      r1 := ((decodedSize second first).extractLsb' 8 7).setWidth 8
      r2 := recordCount (decodedSize second first) })

/-- The size byte sent first, `size[13:7]` (`43_size_field.md` R153). -/
def sizeFirst (size : BitVec 14) : Byte := (size.extractLsb' 7 7).setWidth 8

/-- The size byte sent second, `size[6:0]` (`43_size_field.md` R153). -/
def sizeSecond (size : BitVec 14) : Byte := (size.extractLsb' 0 7).setWidth 8

/-- `PACK.SIZE size` (`43_size_field.md` R153): the byte that goes first on the wire is in `r1`. -/
def execPackSize (size : BitVec 14) (s : State) : Result :=
  .next (s.respond { r0 := sizeSecond size, r1 := sizeFirst size })

end Sys2Proof.Machine
end

