-- ==== Sys2Proof/Machine/System.lean ====
section
/-! DEFINITION. The system commands (`45_system.md`). -/

namespace Sys2Proof.Machine

/-- `NOP` (`45_system.md` R180): the all-zero response. -/
def execNop (s : State) : Result := .next (s.respond {})

/-- `STRD` (`45_system.md` R181): answer STATUS, clear nothing. -/
def execStrd (s : State) : Result := .next (s.respond { r0 := s.status.byte })

/-- `STCLR mask` (`45_system.md` R182). -/
def execStclr (mask : Byte) (s : State) : Result :=
  .next (if mask.extractLsb' 3 5 = 0#5 then s.acknowledge mask else s.takeIllegal)

/-- `CTRLRD` (`45_system.md` R183): answer CTRL. -/
def execCtrlrd (s : State) : Result := .next (s.respond { r0 := s.ctrl.byte })

/-- `CTRLWR value` (`45_system.md` R184): write CTRL as a whole and answer its new value. -/
def execCtrlwr (value : Byte) (s : State) : Result :=
  .next (if value.extractLsb' 1 7 = 0#7 then
      (s.writeCtrl value).respond { r0 := (s.writeCtrl value).ctrl.byte }
    else s.takeIllegal)

end Sys2Proof.Machine
end

