-- ==== Sys2Proof/Machine/Unpack.lean ====
section
/-! DEFINITION. The unpack commands (`41_unpack.md`), each the shared body over its row of the field table. -/

namespace Sys2Proof.Machine

/-- `UNPK.CURVE byte` (`41_unpack.md` R104). -/
def execUnpkCurve (byte : Byte) (s : State) : Result := .next (unpackByte (curveFormat Config.curveLeftHigh) byte s)

/-- `UNPK.DTRS byte` (`41_unpack.md` R105). -/
def execUnpkDtrs (byte : Byte) (s : State) : Result := .next (unpackByte dtrsFormat byte s)

/-- `UNPK.SENS byte` (`41_unpack.md` R106). -/
def execUnpkSens (byte : Byte) (s : State) : Result := .next (unpackByte sensFormat byte s)

/-- `UNPK.OSC byte` (`41_unpack.md` R107). -/
def execUnpkOsc (byte : Byte) (s : State) : Result := .next (unpackByte oscFormat byte s)

/-- `UNPK.LFO byte` (`41_unpack.md` R108). -/
def execUnpkLfo (byte : Byte) (s : State) : Result := .next (unpackByte lfoFormat byte s)

/-- `UNPK.FBKS byte` (`41_unpack.md` R109). -/
def execUnpkFbks (byte : Byte) (s : State) : Result := .next (unpackByte fbksFormat byte s)

/-- `UNPK.ALG byte` (`41_unpack.md` R110). -/
def execUnpkAlg (byte : Byte) (s : State) : Result := .next (unpackByte algFormat byte s)

/-- `UNPK.TRN byte` (`41_unpack.md` R111). -/
def execUnpkTrn (byte : Byte) (s : State) : Result := .next (unpackByte trnFormat byte s)

/-- `UNPK.U99 byte` (`41_unpack.md` R112). -/
def execUnpkU99 (byte : Byte) (s : State) : Result := .next (unpackByte u99Format byte s)

end Sys2Proof.Machine
end

