-- ==== Sys2Proof/Machine/Dispatch.lean ====
section
/-! DEFINITION. One arm per command of `30_encoding.md` R70, each one direct call of its meaning. -/

namespace Sys2Proof.Machine

def exec (i : Instr) (s : State) : Host.Outcome State Fault Refusal :=
  match i with
  | .nop => Sys2Proof.Machine.execNop s
  | .strd => Sys2Proof.Machine.execStrd s
  | .stclr mask => Sys2Proof.Machine.execStclr mask s
  | .ctrlrd => Sys2Proof.Machine.execCtrlrd s
  | .ctrlwr value => Sys2Proof.Machine.execCtrlwr value s
  | .bfx byte lo w => Sys2Proof.Machine.execBfx byte lo w s
  | .bfi base lo w v => Sys2Proof.Machine.execBfi base lo w v s
  | .unpkCurve byte => Sys2Proof.Machine.execUnpkCurve byte s
  | .unpkDtrs byte => Sys2Proof.Machine.execUnpkDtrs byte s
  | .unpkSens byte => Sys2Proof.Machine.execUnpkSens byte s
  | .unpkOsc byte => Sys2Proof.Machine.execUnpkOsc byte s
  | .unpkLfo byte => Sys2Proof.Machine.execUnpkLfo byte s
  | .unpkFbks byte => Sys2Proof.Machine.execUnpkFbks byte s
  | .unpkAlg byte => Sys2Proof.Machine.execUnpkAlg byte s
  | .unpkTrn byte => Sys2Proof.Machine.execUnpkTrn byte s
  | .unpkU99 byte => Sys2Proof.Machine.execUnpkU99 byte s
  | .unpkSize second first => Sys2Proof.Machine.execUnpkSize second first s
  | .packCurve right left => Sys2Proof.Machine.execPackCurve right left s
  | .packDtrs rs detune => Sys2Proof.Machine.execPackDtrs rs detune s
  | .packSens ams vs => Sys2Proof.Machine.execPackSens ams vs s
  | .packOsc mode coarse => Sys2Proof.Machine.execPackOsc mode coarse s
  | .packLfo ks wave pms => Sys2Proof.Machine.execPackLfo ks wave pms s
  | .packFbks fb oks => Sys2Proof.Machine.execPackFbks fb oks s
  | .packAlg id => Sys2Proof.Machine.execPackAlg id s
  | .packTrn transpose => Sys2Proof.Machine.execPackTrn transpose s
  | .packU99 v => Sys2Proof.Machine.execPackU99 v s
  | .packSize size => Sys2Proof.Machine.execPackSize size s
  | .ckclr => Sys2Proof.Machine.execCkclr s
  | .ckadd byte => Sys2Proof.Machine.execCkadd byte s
  | .ckrd => Sys2Proof.Machine.execCkrd s
  | .ckcmp byte => Sys2Proof.Machine.execCkcmp byte s

end Sys2Proof.Machine
end

