-- ==== Sys2Proof/Machine/Cycle.lean ====
section
/-! DEFINITION. What one step does with the host's next action: execute a command word, hand over a response, or
reset (`00_scope.md` R12, `20_memory.md` R41, `70_reset_and_hazards.md` R231). -/

namespace Sys2Proof.Machine

/-- Run one command word to its end: decode it, then execute its rule; a word that decodes to Illegal takes the
illegal-command outcome, decided before anything else (`00_scope.md` R12, `60_exceptions.md` R212, R216). -/
def runWord (c : Word) (s : State) : Result :=
  match decode c with
  | .ok i => exec i s
  | .error _ => .next s.takeIllegal

/-- Carry out one action of the host. -/
def act (a : HostAction) (rest : List HostAction) (s : State) : Result :=
  match a with
  | .command c => runWord c (s.proceed rest)
  | .takeResponse => .next (s.proceed rest).deliver
  | .reset => .next (State.resetWith rest)

/-- The host offers one more command word, ahead of whatever else is pending. -/
def State.offerCommand (c : Word) (s : State) : State := { s with pending := .command c :: s.pending }

end Sys2Proof.Machine
end

