-- ==== Sys2Proof/Machine/Step.lean ====
section
/-! DEFINITION. The step (`00_scope.md` R12). -/

namespace Sys2Proof.Machine

/-- One step: carry out the host's next action. With no action pending the block waits and nothing changes: it has
no terminal state (`70_reset_and_hazards.md` R241; log entry 2). -/
def step (s : State) : Host.Outcome State Fault Refusal :=
  match s.pending with
  | [] => .next s
  | a :: rest => act a rest s

/-- The state in which the very next step takes the command word made of the table bits `w` (log entry 6). -/
def State.withFetchWord (s : State) (nbits w : Nat) : State := s.offerCommand (tableWord nbits w)

end Sys2Proof.Machine
end

