-- ==== Sys2Proof/Safety.lean ====
section
/-! DEFINITION. What the statements about the BFC say, in their own terms: the response word as a number, the operand
formats as conditions on a word, legal responses, and the invariants of the channels. Nothing here is called by the
machine. -/

namespace Sys2Proof

open Machine

/-- The response word of `30_encoding.md` R63 written as a number: lanes at bits 0, 8, 16, flags `E0`, `E1`, `E2` at
bits 24, 25, 26, `CKM` at bit 27. -/
def wordOf (r0 : Nat) (r1 r2 : Nat := 0) (e0 e1 e2 ckm : Bool := false) : Word :=
  BitVec.ofNat 32 (r0 + 2 ^ 8 * r1 + 2 ^ 16 * r2 + 2 ^ 24 * e0.toNat + 2 ^ 25 * e1.toNat + 2 ^ 26 * e2.toNat
    + 2 ^ 27 * ckm.toNat)

/-- The state that differs from `s` by one more response word offered (`20_memory.md` R42) and one more command counted
(`10_state.md` R22). -/
def Machine.State.answering (s : State) (w : Word) : State :=
  { s with responses := s.responses ++ [w], index := s.index + 1 }

/-- The state after an illegal command (`60_exceptions.md` R212). -/
def Machine.State.illegalAfter (s : State) : State :=
  { s with status := { s.status with ill := true }, responses := s.responses ++ [0x80000000#32], index := s.index + 1 }

/-! ### The operand formats, each as: which words of the opcode are the command, and which are illegal (R62, R73) -/

/-- Format Z: only the word with `cmd[23:0] = 0` is the command. -/
def DecodesZ (op : Byte) (i : Instr) : Prop :=
  encode i = op ++ 0#24 ∧
  ∀ c : Word, c.extractLsb' 24 8 = op →
    (c.extractLsb' 0 24 = 0#24 → decode c = .ok i) ∧
    (c.extractLsb' 0 24 ≠ 0#24 → decode c = .error .reservedBit)

/-- Format B: `cmd[23:8]` must be 0 and `f0` is the byte. -/
def DecodesB (op : Byte) (make : Byte → Instr) : Prop :=
  (∀ b, encode (make b) = op ++ 0#16 ++ b) ∧
  ∀ c : Word, c.extractLsb' 24 8 = op →
    (c.extractLsb' 8 16 = 0#16 → decode c = .ok (make (c.extractLsb' 0 8))) ∧
    (c.extractLsb' 8 16 ≠ 0#16 → decode c = .error .reservedBit)

/-- Format BB: `cmd[23:16]` must be 0, `f0` and `f1` are the bytes. -/
def DecodesBB (op : Byte) (make : Byte → Byte → Instr) : Prop :=
  (∀ f0 f1, encode (make f0 f1) = op ++ 0#8 ++ f1 ++ f0) ∧
  ∀ c : Word, c.extractLsb' 24 8 = op →
    (c.extractLsb' 16 8 = 0#8 → decode c = .ok (make (c.extractLsb' 0 8) (c.extractLsb' 8 8))) ∧
    (c.extractLsb' 16 8 ≠ 0#8 → decode c = .error .reservedBit)

/-! ### Legal field geometries and packed bytes as numbers -/

/-- The legal geometries of `40_generic_bitfield.md` R91. -/
def LegalField (lo w : Nat) : Prop := lo ≤ 7 ∧ 1 ≤ w ∧ w ≤ 8 ∧ lo + w ≤ 8

/-- The command that raises a range error, by its operand byte (`60_exceptions.md` R211, first row). -/
def rangeError : Instr → Bool
  | .unpkDtrs b => b.toNat / 8 % 16 == 15
  | .unpkSens b => decide (8 ≤ b.toNat / 4)
  | .unpkOsc b => decide (32 ≤ b.toNat / 2)
  | .unpkLfo b => decide (6 ≤ b.toNat / 2 % 8)
  | .unpkTrn b => decide (49 ≤ b.toNat)
  | .unpkU99 b => decide (100 ≤ b.toNat)
  | _ => false

/-- The nine unpack commands of `41_unpack.md` R100. -/
def isUnpack : Instr → Bool
  | .unpkCurve _ | .unpkDtrs _ | .unpkSens _ | .unpkOsc _ | .unpkLfo _ | .unpkFbks _ | .unpkAlg _ | .unpkTrn _
  | .unpkU99 _ => true
  | _ => false

/-- The pack commands of `42_pack.md` and the size, extract, insert and reading commands: no state is written by them
when they are legal (`20_memory.md` R49). -/
def isStateless : Instr → Bool
  | .bfx _ lo w => legalGeometry lo w
  | .bfi _ lo w _ => legalGeometry lo w
  | .nop | .strd | .ctrlrd | .ckrd | .unpkSize _ _ | .packCurve _ _ | .packDtrs _ _ | .packSens _ _ | .packOsc _ _
  | .packLfo _ _ _ | .packFbks _ _ | .packAlg _ | .packTrn _ | .packU99 _ | .packSize _ => true
  | _ => false

/-- The pack command answers one byte, and unpacking that byte answers `answer`, both without touching any state but
the response channel (`42_pack.md` R140, first direction). -/
def PackedThenUnpacked (pack : Instr) (unpack : Byte → Instr) (answer : Word) : Prop :=
  ∃ b : Byte, ∀ s s' : State,
    exec pack s = .next (s.answering (b.setWidth 32)) ∧ exec (unpack b) s' = .next (s'.answering answer)

/-- A byte whose unpack reports no error is packed again, from the lanes of the unpack's response, into the same byte
with its uncovered bits cleared; after an error the byte differs (`42_pack.md` R140, second direction). `covered` is
the mask of the format's fields, `flags` the top byte of the unpack's response. -/
def UnpackedThenPacked (unpack : Byte → Instr) (pack : Byte → Byte → Byte → Instr) (covered : Byte) : Prop :=
  ∀ b : Byte, ∃ flags r0 r1 r2 packed : Byte,
    (∀ s : State, exec (unpack b) s =
      .next ({ s with status := { s.status with err := s.status.err || flags != 0 } }.answering
        (flags ++ r2 ++ r1 ++ r0))) ∧
    (∀ s : State, exec (pack r0 r1 r2) s = .next (s.answering (0#24 ++ packed))) ∧
    (flags = 0 → packed = b &&& covered) ∧ (flags ≠ 0 → packed ≠ b &&& covered)

/-! ### The invariants -/

/-- A response word the block can send (`30_encoding.md` R63, `41_unpack.md` R114, `60_exceptions.md` R216): the
illegal answer, or a word whose bits 31:28 are 0, whose `E2` is 0 and of whose flags `E0`, `E1`, `CKM` at most one is
1. -/
def legalResponse (w : Word) : Bool :=
  w == 0x80000000#32 ||
    (w.extractLsb' 28 4 == 0#4 && !w.getLsbD 26 && !(w.getLsbD 25 && w.getLsbD 24) &&
      !(w.getLsbD 27 && (w.getLsbD 25 || w.getLsbD 24)))

/-- Every response since reset is a word the block can send. -/
def Machine.State.ResponsesLegal (s : State) : Prop := ∀ w ∈ s.received ++ s.responses, legalResponse w = true

/-- One response for every command taken since reset (`20_memory.md` R42). -/
def Machine.State.Accounted (s : State) : Prop := s.received.length + s.responses.length = s.index

/-! ### Runs -/

/-- The host's next actions are these commands, in this order, and then `rest`. -/
def Machine.State.Presents (s : State) (is : List Instr) (rest : List HostAction) : Prop :=
  s.pending = is.map (fun i => .command (encode i)) ++ rest

/-- The sum of the bytes, an unbounded number (`44_checksum.md` R167). -/
def byteSum (bs : List Byte) : Nat := (bs.map BitVec.toNat).sum

/-- The bytes that the CKADD commands among these words carry, in order (`44_checksum.md` R167, R168). -/
def addedBytes (ws : List Word) : List Byte :=
  ws.filterMap (fun c => match decode c with
    | .ok (.ckadd b) => some b
    | _ => none)

end Sys2Proof
end

