-- ==== Sys2Proof/Certificates/Slice0/Obligations.lean ====
section
/-! DEFINITION. The statements for the provers. Each docstring names the rule of spec/ it formalises. A statement of a
command's result gives the whole next state: what is not in the update is unchanged. -/

section

open Sys2Proof Sys2Proof.Machine

/-! ### Reset, the step, and the channels -/

/-- `10_state.md` R32: the reset values, read through the registers' own reads. -/
def Obligations.ResetStateHasAllBitsZero : Prop :=
  State.reset.csum = 0x00#8 ∧ State.reset.status.byte = 0x00#8 ∧ State.reset.ctrl.byte = 0x00#8 ∧
    State.reset.status.err = false ∧ State.reset.status.ckbad = false ∧ State.reset.status.ill = false ∧
    State.reset.ctrl.ckenf = false

/-- `70_reset_and_hazards.md` R230, R231: a reset at any point between two commands replaces the state by the reset
state, drops the untaken responses and starts the numbering again. That `received` is emptied and `pending` goes on is
the model's choice (log entry 18). -/
def Obligations.ResetActionReplacesTheState : Prop :=
  ∀ (s : State) (rest : List HostAction), s.pending = .reset :: rest →
    ∃ t, step s = .next t ∧ t.csum = State.reset.csum ∧ t.status = State.reset.status ∧ t.ctrl = State.reset.ctrl ∧
      t.responses = [] ∧ t.received = [] ∧ t.index = 0 ∧ t.pending = rest

/-- `00_scope.md` R12: a step takes the next command word, decodes it and runs the command it selects. Around the
command the step only moves past the word. -/
def Obligations.StepRunsTheDecodedCommand : Prop :=
  ∀ (s : State) (c : Word) (rest : List HostAction) (i : Instr), s.pending = .command c :: rest →
    decode c = .ok i → step s = exec i { s with pending := rest }

/-- `60_exceptions.md` R212, over the Illegal of `30_encoding.md` R71: `STATUS.ILL` is set, the answer is
`0x80000000`, nothing else changes. -/
def Obligations.IllegalCommandOnlySetsIll : Prop :=
  ∀ (s : State) (c : Word) (rest : List HostAction), s.pending = .command c :: rest → decodeByTable c = none →
    step s = .next { s.illegalAfter with pending := rest }

/-- `30_encoding.md` R72: each of the 225 reserved opcodes is illegal whatever its operand bits. -/
def Obligations.ReservedOpcodesAreIllegal : Prop :=
  ((List.range 256).filter (fun op => 0x05 ≤ op && op ≤ 0x07 || 0x0A ≤ op && op ≤ 0x0F || 0x1A ≤ op && op ≤ 0x1F ||
    0x2A ≤ op && op ≤ 0x2F || 0x34 ≤ op)).length = 225 ∧
  ∀ (s : State) (c : Word) (rest : List HostAction), s.pending = .command c :: rest →
    (let op := c.toNat / 2 ^ 24
     0x05 ≤ op ∧ op ≤ 0x07 ∨ 0x0A ≤ op ∧ op ≤ 0x0F ∨ 0x1A ≤ op ∧ op ≤ 0x1F ∨ 0x2A ≤ op ∧ op ≤ 0x2F ∨ 0x34 ≤ op) →
    step s = .next { s.illegalAfter with pending := rest }

/-- The operand checks of STCLR, CTRLWR, BFX and BFI in the rules' own pseudocode agree with those of the decoder: a
command term that is not well formed has the illegal outcome (`45_system.md` R182, R184, `40_generic_bitfield.md`
R91). -/
def Obligations.IllFormedCommandsAreIllegal : Prop :=
  ∀ (i : Instr) (s : State), i.wellFormed = false → exec i s = .next s.illegalAfter

/-- The model's choice (log entries 2 and 3): a step with nothing pending changes nothing; taking a response moves the
oldest one to the host, and with none offered only the action is used up. -/
def Obligations.IdleStepAndTakingAResponse : Prop :=
  (∀ s : State, s.pending = [] → step s = .next s) ∧
  (∀ (s : State) (rest : List HostAction) (w : Word) (ws : List Word), s.pending = .takeResponse :: rest →
    s.responses = w :: ws →
    step s = .next { s with pending := rest, responses := ws, received := s.received ++ [w] }) ∧
  (∀ (s : State) (rest : List HostAction), s.pending = .takeResponse :: rest → s.responses = [] →
    step s = .next { s with pending := rest })

/-- `60_exceptions.md` R210, `70_reset_and_hazards.md` R241: in every state the block goes on. -/
def Obligations.EveryStepAnswersANextState : Prop := ∀ s : State, ∃ t, step s = .next t

/-! ### Encoding -/

/-- Sample words of `95_test_vectors.md`, one per family. -/
def Obligations.SampleWordsDecode : Prop :=
  decode 0x02000004#32 = .ok (.stclr 4#8) ∧ decode 0x080043B8#32 = .ok (.bfx 0xB8#8 3#4 4#4) ∧
  decode 0x090A4302#32 = .ok (.bfi 0x02#8 3#4 4#4 10#8) ∧ decode 0x1400007A#32 = .ok (.unpkLfo 0x7A#8) ∧
  decode 0x19002000#32 = .ok (.unpkSize 0x00#8 0x20#8) ∧ decode 0x24050201#32 = .ok (.packLfo 1#8 2#8 5#8) ∧
  decode 0x29001000#32 = .ok (.packSize 4096#14) ∧ decode 0x3300007A#32 = .ok (.ckcmp 0x7A#8) ∧
  decode 0x00000001#32 = .error .reservedBit ∧ decode 0x29004000#32 = .error .reservedBit ∧
  decode 0x080054A5#32 = .error .geometry ∧ decode 0x34000010#32 = .error .reservedOpcode

/-- Every well-formed command is read back from its word, with every operand. -/
def Obligations.DecodeOfEncode : Prop := ∀ i : Instr, i.wellFormed = true → decode (encode i) = .ok i

/-- A word decodes to a command only if it is that command's word: decode is injective on legal commands
(`30_encoding.md` R73). -/
def Obligations.EncodeOfDecode : Prop :=
  ∀ (c : Word) (i : Instr), decode c = .ok i → i.wellFormed = true ∧ encode i = c

/-- `30_encoding.md` R71: decoding is the search of the table of R70 by match and mask, and at most one row matches. -/
def Obligations.DecodeIsTheTableSearch : Prop :=
  ∀ c : Word, (decode c).toOption = decodeByTable c ∧ (tableRows.filter (fun r => r.fits c)).length ≤ 1

/-! ### System commands -/

/-- `45_system.md` R180. -/
def Obligations.NopAnswersZero : Prop :=
  DecodesZ 0x00 .nop ∧ ∀ s : State, exec .nop s = .next (s.answering 0#32)

/-- `45_system.md` R181. -/
def Obligations.StrdReadsStatus : Prop :=
  DecodesZ 0x01 .strd ∧ ∀ s : State, exec .strd s =
    .next (s.answering (wordOf (s.status.err.toNat + 2 * s.status.ckbad.toNat + 4 * s.status.ill.toNat)))

/-- `45_system.md` R182: a legal mask clears the flags it names and answers `STATUS & ~f0 & 0x07`; any other mask
clears nothing and is illegal. -/
def Obligations.StclrClearsTheNamedFlags : Prop :=
  (∀ mask : Byte, encode (.stclr mask) = 0x02#8 ++ 0#16 ++ mask) ∧
  (∀ c : Word, c.extractLsb' 24 8 = 0x02#8 →
    (c.extractLsb' 3 21 = 0#21 → decode c = .ok (.stclr (c.extractLsb' 0 8))) ∧
    (c.extractLsb' 3 21 ≠ 0#21 → decode c = .error .reservedBit)) ∧
  ∀ (mask : Byte) (s : State),
    (mask.toNat < 8 → ∃ status : StatusReg, status.byte = s.status.byte &&& ~~~mask &&& 0x07#8 ∧
      exec (.stclr mask) s = .next ({ s with status := status }.answering (status.byte.setWidth 32))) ∧
    (8 ≤ mask.toNat → exec (.stclr mask) s = .next s.illegalAfter)

/-- `45_system.md` R183. -/
def Obligations.CtrlrdReadsCtrl : Prop :=
  DecodesZ 0x03 .ctrlrd ∧ ∀ s : State, exec .ctrlrd s = .next (s.answering (wordOf s.ctrl.ckenf.toNat))

/-- `45_system.md` R184: a value 0 or 1 becomes CTRL and is answered; any other value leaves CTRL as it was and is
illegal. -/
def Obligations.CtrlwrWritesCtrl : Prop :=
  (∀ value : Byte, encode (.ctrlwr value) = 0x04#8 ++ 0#16 ++ value) ∧
  (∀ c : Word, c.extractLsb' 24 8 = 0x04#8 →
    (c.extractLsb' 1 23 = 0#23 → decode c = .ok (.ctrlwr (c.extractLsb' 0 8))) ∧
    (c.extractLsb' 1 23 ≠ 0#23 → decode c = .error .reservedBit)) ∧
  ∀ (value : Byte) (s : State),
    (value.toNat < 2 → ∃ ctrl : CtrlReg, ctrl.byte = value ∧
      exec (.ctrlwr value) s = .next ({ s with ctrl := ctrl }.answering (value.setWidth 32))) ∧
    (2 ≤ value.toNat → exec (.ctrlwr value) s = .next s.illegalAfter)

/-! ### Generic extract and insert -/

/-- `40_generic_bitfield.md` R92: the field `b / 2^lo mod 2^w`; any other geometry, and a 1 in `cmd[23:16]`, is
illegal. -/
def Obligations.BfxExtractsTheField : Prop :=
  (∀ (b : Byte) (lo w : BitVec 4), encode (.bfx b lo w) = 0x08#8 ++ 0#8 ++ w ++ lo ++ b) ∧
  (∀ c : Word, c.extractLsb' 24 8 = 0x08#8 →
    (c.extractLsb' 16 8 = 0#8 ∧ LegalField (c.extractLsb' 8 4).toNat (c.extractLsb' 12 4).toNat →
      decode c = .ok (.bfx (c.extractLsb' 0 8) (c.extractLsb' 8 4) (c.extractLsb' 12 4))) ∧
    (¬(c.extractLsb' 16 8 = 0#8 ∧ LegalField (c.extractLsb' 8 4).toNat (c.extractLsb' 12 4).toNat) →
      ∃ e, decode c = .error e)) ∧
  ∀ (b : Byte) (lo w : BitVec 4) (s : State),
    (LegalField lo.toNat w.toNat →
      exec (.bfx b lo w) s = .next (s.answering (wordOf (b.toNat / 2 ^ lo.toNat % 2 ^ w.toNat)))) ∧
    (¬LegalField lo.toNat w.toNat → exec (.bfx b lo w) s = .next s.illegalAfter)

/-- `40_generic_bitfield.md` R93: the bits below and above the field are kept, the field becomes `v mod 2^w`; any other
geometry is illegal. -/
def Obligations.BfiInsertsTheField : Prop :=
  (∀ (b v : Byte) (lo w : BitVec 4), encode (.bfi b lo w v) = 0x09#8 ++ v ++ w ++ lo ++ b) ∧
  (∀ c : Word, c.extractLsb' 24 8 = 0x09#8 →
    (LegalField (c.extractLsb' 8 4).toNat (c.extractLsb' 12 4).toNat →
      decode c = .ok (.bfi (c.extractLsb' 0 8) (c.extractLsb' 8 4) (c.extractLsb' 12 4) (c.extractLsb' 16 8))) ∧
    (¬LegalField (c.extractLsb' 8 4).toNat (c.extractLsb' 12 4).toNat → ∃ e, decode c = .error e)) ∧
  ∀ (b v : Byte) (lo w : BitVec 4) (s : State),
    (LegalField lo.toNat w.toNat → exec (.bfi b lo w v) s = .next (s.answering (wordOf
      (b.toNat % 2 ^ lo.toNat + 2 ^ lo.toNat * (v.toNat % 2 ^ w.toNat) +
        2 ^ (lo.toNat + w.toNat) * (b.toNat / 2 ^ (lo.toNat + w.toNat)))))) ∧
    (¬LegalField lo.toNat w.toNat → exec (.bfi b lo w v) s = .next s.illegalAfter)

/-- `40_generic_bitfield.md` R94: the three laws of `ext` and `ins`. -/
def Obligations.ExtractAndInsertLaws : Prop :=
  ∀ (b v : Byte) (lo w : Nat), LegalField lo w →
    (ext (ins b lo w v) lo w).toNat = v.toNat % 2 ^ w ∧ ins b lo w (ext b lo w) = b ∧
    ∀ lo2 w2 : Nat, LegalField lo2 w2 → (lo + w ≤ lo2 ∨ lo2 + w2 ≤ lo) →
      ext (ins b lo w v) lo2 w2 = ext b lo2 w2

/-! ### Unpack commands -/

/-- `41_unpack.md` R104, for both values of `CURVE_LEFT_HIGH`. -/
def Obligations.UnpackCurve : Prop :=
  DecodesB 0x10 .unpkCurve ∧ ∀ (b : Byte) (s : State),
    let high := b.toNat / 4 % 4
    let low := b.toNat % 4
    exec (.unpkCurve b) s = .next (s.answering
      (if Config.curveLeftHigh then wordOf (r0 := low) (r1 := high) else wordOf (r0 := high) (r1 := low)))

/-- `41_unpack.md` R105. -/
def Obligations.UnpackDetuneAndRateScaling : Prop :=
  DecodesB 0x11 .unpkDtrs ∧ ∀ (b : Byte) (s : State),
    let detune : Int := (b.toNat / 8 % 16 : Nat) - 7
    let e1 : Bool := detune < -7 || 7 < detune
    exec (.unpkDtrs b) s = .next ({ s with status := { s.status with err := s.status.err || e1 } }.answering
      (wordOf (r0 := b.toNat % 8) (r1 := (max (-7) (min detune 7) % 256).toNat) (e1 := e1)))

/-- `41_unpack.md` R106. -/
def Obligations.UnpackSensitivities : Prop :=
  DecodesB 0x12 .unpkSens ∧ ∀ (b : Byte) (s : State),
    let vs := b.toNat / 4
    let e1 : Bool := 7 < vs
    exec (.unpkSens b) s = .next ({ s with status := { s.status with err := s.status.err || e1 } }.answering
      (wordOf (r0 := b.toNat % 4) (r1 := min vs 7) (e1 := e1)))

/-- `41_unpack.md` R107. -/
def Obligations.UnpackOscillator : Prop :=
  DecodesB 0x13 .unpkOsc ∧ ∀ (b : Byte) (s : State),
    let coarse := b.toNat / 2
    let e1 : Bool := 31 < coarse
    exec (.unpkOsc b) s = .next ({ s with status := { s.status with err := s.status.err || e1 } }.answering
      (wordOf (r0 := b.toNat % 2) (r1 := min coarse 31) (e1 := e1)))

/-- `41_unpack.md` R108. -/
def Obligations.UnpackLfo : Prop :=
  DecodesB 0x14 .unpkLfo ∧ ∀ (b : Byte) (s : State),
    let wave := b.toNat / 2 % 8
    let e1 : Bool := 5 < wave
    exec (.unpkLfo b) s = .next ({ s with status := { s.status with err := s.status.err || e1 } }.answering
      (wordOf (r0 := b.toNat % 2) (r1 := min wave 5) (r2 := b.toNat / 16 % 8) (e1 := e1)))

/-- `41_unpack.md` R109. -/
def Obligations.UnpackFeedback : Prop :=
  DecodesB 0x15 .unpkFbks ∧ ∀ (b : Byte) (s : State),
    exec (.unpkFbks b) s = .next (s.answering (wordOf (r0 := b.toNat % 8) (r1 := b.toNat / 8 % 2)))

/-- `41_unpack.md` R110. -/
def Obligations.UnpackAlgorithm : Prop :=
  DecodesB 0x16 .unpkAlg ∧ ∀ (b : Byte) (s : State),
    exec (.unpkAlg b) s = .next (s.answering (wordOf (b.toNat % 32 + 1)))

/-- `41_unpack.md` R111. -/
def Obligations.UnpackTranspose : Prop :=
  DecodesB 0x17 .unpkTrn ∧ ∀ (b : Byte) (s : State),
    let t : Int := (b.toNat : Int) - 24
    let e0 : Bool := t < -24 || 24 < t
    exec (.unpkTrn b) s = .next ({ s with status := { s.status with err := s.status.err || e0 } }.answering
      (wordOf (r0 := (max (-24) (min t 24) % 256).toNat) (e0 := e0)))

/-- `41_unpack.md` R112. -/
def Obligations.UnpackPlainByte : Prop :=
  DecodesB 0x18 .unpkU99 ∧ ∀ (b : Byte) (s : State),
    let e0 : Bool := 99 < b.toNat
    exec (.unpkU99 b) s = .next ({ s with status := { s.status with err := s.status.err || e0 } }.answering
      (wordOf (r0 := min b.toNat 99) (e0 := e0)))

/-- `41_unpack.md` R102: bits no field covers change nothing; CURVE and FBKS cover bits 3:0, DTRS and LFO bits 6:0, ALG
bits 4:0. -/
def Obligations.UncoveredBitsAreIgnored : Prop :=
  ∀ (b b' : Byte) (s : State),
    (b &&& 0x0F#8 = b' &&& 0x0F#8 → exec (.unpkCurve b) s = exec (.unpkCurve b') s) ∧
    (b &&& 0x7F#8 = b' &&& 0x7F#8 → exec (.unpkDtrs b) s = exec (.unpkDtrs b') s) ∧
    (b &&& 0x7F#8 = b' &&& 0x7F#8 → exec (.unpkLfo b) s = exec (.unpkLfo b') s) ∧
    (b &&& 0x0F#8 = b' &&& 0x0F#8 → exec (.unpkFbks b) s = exec (.unpkFbks b') s) ∧
    (b &&& 0x1F#8 = b' &&& 0x1F#8 → exec (.unpkAlg b) s = exec (.unpkAlg b') s)

/-! ### Pack commands -/

/-- `42_pack.md` R131, for both values of `CURVE_LEFT_HIGH`; whatever the parameter, unpacking the byte gives the two
operands modulo 4. -/
def Obligations.PackCurve : Prop :=
  DecodesBB 0x20 .packCurve ∧ ∀ right left : Byte,
    let packed := if Config.curveLeftHigh then 4 * (left.toNat % 4) + right.toNat % 4
      else 4 * (right.toNat % 4) + left.toNat % 4
    (∀ s : State, exec (.packCurve right left) s = .next (s.answering (wordOf packed))) ∧
    ∀ s : State, exec (.unpkCurve (BitVec.ofNat 8 packed)) s =
      .next (s.answering (wordOf (r0 := right.toNat % 4) (r1 := left.toNat % 4)))

/-- `42_pack.md` R132: the detune lane is two's complement, its bias 7 is added, the result is kept modulo 16. -/
def Obligations.PackDetuneAndRateScaling : Prop :=
  DecodesBB 0x21 .packDtrs ∧ ∀ (rs detune : Byte) (s : State),
    exec (.packDtrs rs detune) s =
      .next (s.answering (wordOf (8 * ((detune.toInt + 7) % 16).toNat + rs.toNat % 8)))

/-- `42_pack.md` R133. -/
def Obligations.PackSensitivities : Prop :=
  DecodesBB 0x22 .packSens ∧ ∀ (ams vs : Byte) (s : State),
    exec (.packSens ams vs) s = .next (s.answering (wordOf (4 * (vs.toNat % 64) + ams.toNat % 4)))

/-- `42_pack.md` R134. -/
def Obligations.PackOscillator : Prop :=
  DecodesBB 0x23 .packOsc ∧ ∀ (mode coarse : Byte) (s : State),
    exec (.packOsc mode coarse) s = .next (s.answering (wordOf (2 * (coarse.toNat % 128) + mode.toNat % 2)))

/-- `42_pack.md` R135: every word of the opcode is the command. -/
def Obligations.PackLfo : Prop :=
  (∀ c : Word, c.extractLsb' 24 8 = 0x24#8 →
    decode c = .ok (.packLfo (c.extractLsb' 0 8) (c.extractLsb' 8 8) (c.extractLsb' 16 8))) ∧
  ∀ ks wave pms : Byte, encode (.packLfo ks wave pms) = 0x24#8 ++ pms ++ wave ++ ks ∧
    ∀ s : State, exec (.packLfo ks wave pms) s =
      .next (s.answering (wordOf (16 * (pms.toNat % 8) + 2 * (wave.toNat % 8) + ks.toNat % 2)))

/-- `42_pack.md` R136. -/
def Obligations.PackFeedback : Prop :=
  DecodesBB 0x25 .packFbks ∧ ∀ (fb oks : Byte) (s : State),
    exec (.packFbks fb oks) s = .next (s.answering (wordOf (8 * (oks.toNat % 2) + fb.toNat % 8)))

/-- `42_pack.md` R137: the lane is unsigned, and `(id - 1) mod 32` is the byte. -/
def Obligations.PackAlgorithm : Prop :=
  DecodesB 0x26 .packAlg ∧ ∀ (id : Byte) (s : State),
    exec (.packAlg id) s = .next (s.answering (wordOf (((id.toNat : Int) - 1) % 32).toNat))

/-- `42_pack.md` R138. -/
def Obligations.PackTranspose : Prop :=
  DecodesB 0x27 .packTrn ∧ ∀ (transpose : Byte) (s : State),
    exec (.packTrn transpose) s = .next (s.answering (wordOf ((transpose.toInt + 24) % 256).toNat))

/-- `42_pack.md` R139. -/
def Obligations.PackPlainByte : Prop :=
  DecodesB 0x28 .packU99 ∧ ∀ (v : Byte) (s : State), exec (.packU99 v) s = .next (s.answering (wordOf v.toNat))

/-- `42_pack.md` R140, and `41_unpack.md` R116. First direction: every tuple of in-range values comes back from unpack
after pack, with no flag and with STATUS unchanged. Second direction: a byte whose unpack reports no error is packed
into itself with its uncovered bits cleared. -/
def Obligations.PackAndUnpackAreInverse : Prop :=
  ((∀ right left : Byte, right.toNat ≤ 3 → left.toNat ≤ 3 →
    PackedThenUnpacked (.packCurve right left) .unpkCurve (0#16 ++ left ++ right)) ∧
  (∀ rs detune : Byte, rs.toNat ≤ 7 → -7 ≤ detune.toInt → detune.toInt ≤ 7 →
    PackedThenUnpacked (.packDtrs rs detune) .unpkDtrs (0#16 ++ detune ++ rs)) ∧
  (∀ ams vs : Byte, ams.toNat ≤ 3 → vs.toNat ≤ 7 →
    PackedThenUnpacked (.packSens ams vs) .unpkSens (0#16 ++ vs ++ ams)) ∧
  (∀ mode coarse : Byte, mode.toNat ≤ 1 → coarse.toNat ≤ 31 →
    PackedThenUnpacked (.packOsc mode coarse) .unpkOsc (0#16 ++ coarse ++ mode)) ∧
  (∀ ks wave pms : Byte, ks.toNat ≤ 1 → wave.toNat ≤ 5 → pms.toNat ≤ 7 →
    PackedThenUnpacked (.packLfo ks wave pms) .unpkLfo (0#8 ++ pms ++ wave ++ ks)) ∧
  (∀ fb oks : Byte, fb.toNat ≤ 7 → oks.toNat ≤ 1 →
    PackedThenUnpacked (.packFbks fb oks) .unpkFbks (0#16 ++ oks ++ fb)) ∧
  (∀ id : Byte, 1 ≤ id.toNat → id.toNat ≤ 32 → PackedThenUnpacked (.packAlg id) .unpkAlg (0#24 ++ id)) ∧
  (∀ t : Byte, -24 ≤ t.toInt → t.toInt ≤ 24 → PackedThenUnpacked (.packTrn t) .unpkTrn (0#24 ++ t)) ∧
  (∀ v : Byte, v.toNat ≤ 99 → PackedThenUnpacked (.packU99 v) .unpkU99 (0#24 ++ v))) ∧
  UnpackedThenPacked .unpkCurve (fun r0 r1 _ => .packCurve r0 r1) 0x0F ∧
  UnpackedThenPacked .unpkDtrs (fun r0 r1 _ => .packDtrs r0 r1) 0x7F ∧
  UnpackedThenPacked .unpkSens (fun r0 r1 _ => .packSens r0 r1) 0xFF ∧
  UnpackedThenPacked .unpkOsc (fun r0 r1 _ => .packOsc r0 r1) 0xFF ∧
  UnpackedThenPacked .unpkLfo .packLfo 0x7F ∧
  UnpackedThenPacked .unpkFbks (fun r0 r1 _ => .packFbks r0 r1) 0x0F ∧
  UnpackedThenPacked .unpkAlg (fun r0 _ _ => .packAlg r0) 0x1F ∧
  UnpackedThenPacked .unpkTrn (fun r0 _ _ => .packTrn r0) 0xFF ∧
  UnpackedThenPacked .unpkU99 (fun r0 _ _ => .packU99 r0) 0xFF

/-! ### Size field -/

/-- `43_size_field.md` R152: `(f1 << 7) | f0` in `rsp[14:0]` and its division by 128 in `r2`. -/
def Obligations.UnpackSizeField : Prop :=
  DecodesBB 0x19 .unpkSize ∧ ∀ (second first : Byte) (s : State),
    let size := first.toNat <<< 7 ||| second.toNat
    exec (.unpkSize second first) s =
      .next (s.answering (wordOf (r0 := size % 256) (r1 := size / 256) (r2 := size / 128)))

/-- `43_size_field.md` R153: the first byte is `size[13:7]`, the second `size[6:0]`; a 1 in `cmd[23:14]` is illegal. -/
def Obligations.PackSizeField : Prop :=
  (∀ c : Word, c.extractLsb' 24 8 = 0x29#8 →
    (c.extractLsb' 14 10 = 0#10 → decode c = .ok (.packSize (c.extractLsb' 0 14))) ∧
    (c.extractLsb' 14 10 ≠ 0#10 → decode c = .error .reservedBit)) ∧
  ∀ size : BitVec 14, encode (.packSize size) = 0x29#8 ++ 0#10 ++ size ∧
    ∀ s : State, exec (.packSize size) s =
      .next (s.answering (wordOf (r0 := size.toNat % 128) (r1 := size.toNat / 128)))

/-- `43_size_field.md` R154: both round trips of the size field. -/
def Obligations.SizeFieldRoundTrips : Prop :=
  (∀ size : BitVec 14, ∃ second first : Byte, ∀ s s' : State,
    exec (.packSize size) s = .next (s.answering (0#16 ++ first ++ second)) ∧
    exec (.unpkSize second first) s' =
      .next (s'.answering (BitVec.ofNat 32 (size.toNat + 2 ^ 16 * (size.toNat / 128))))) ∧
  ∀ second first : Byte, second.toNat < 128 → first.toNat < 128 → ∃ size : BitVec 14, ∀ s s' : State,
    exec (.unpkSize second first) s = .next (s.answering (BitVec.ofNat 32 (size.toNat + 2 ^ 16 * (size.toNat / 128)))) ∧
    exec (.packSize size) s' = .next (s'.answering (0#16 ++ first ++ second))

/-! ### Checksum -/

/-- `44_checksum.md` R160. -/
def Obligations.CkclrStartsAChecksum : Prop :=
  DecodesZ 0x30 .ckclr ∧ ∀ s : State, exec .ckclr s = .next ({ s with csum := 0 }.answering 0#32)

/-- `44_checksum.md` R161: `(CSUM - byte) mod 256` is the new CSUM and the answer. -/
def Obligations.CkaddSubtractsTheByte : Prop :=
  DecodesB 0x31 .ckadd ∧ ∀ (b : Byte) (s : State),
    let sum : Nat := (((s.csum.toNat : Int) - b.toNat) % 256).toNat
    exec (.ckadd b) s = .next ({ s with csum := BitVec.ofNat 8 sum }.answering (wordOf sum))

/-- `44_checksum.md` R163. -/
def Obligations.CkrdReadsTheTrailer : Prop :=
  DecodesZ 0x32 .ckrd ∧ ∀ s : State,
    exec .ckrd s = .next (s.answering (wordOf (r0 := s.csum.toNat % 128) (r1 := s.csum.toNat)))

/-- `44_checksum.md` R165: the whole byte is compared with the low 7 bits of CSUM; a mismatch sets CKBAD, and ERR too
when CKENF is 1. -/
def Obligations.CkcmpComparesTheTrailer : Prop :=
  DecodesB 0x33 .ckcmp ∧ ∀ (b : Byte) (s : State),
    let expected := s.csum.toNat % 128
    let ckm : Bool := b.toNat ≠ expected
    exec (.ckcmp b) s = .next ({ s with status := { s.status with
        ckbad := s.status.ckbad || ckm, err := s.status.err || (ckm && s.ctrl.ckenf) } }.answering
      (wordOf (r0 := expected) (r1 := b.toNat) (ckm := ckm)))

/-- `44_checksum.md` R167: after CKCLR and any command words none of which is a CKCLR, CSUM is the negated sum modulo
256 of the bytes that CKADD commands among them carried, in whatever order; the trailer is the negated sum modulo 128.
Only a byte of `0x00` leaves CSUM as it is, and a byte of `0x80` flips its bit 7 and nothing else. -/
def Obligations.ChecksumIsTheNegatedSum : Prop :=
  (∀ (ws : List Word) (s : State) (rest : List HostAction), (∀ c ∈ ws, decode c ≠ .ok .ckclr) →
    s.pending = (encode .ckclr :: ws).map .command ++ rest →
    ∃ t : State, core.run (ws.length + 1) s = .next t ∧ t.pending = rest ∧
      t.csum.toNat = ((-(byteSum (addedBytes ws) : Int)) % 256).toNat ∧
      t.csum.toNat % 128 = ((-(byteSum (addedBytes ws) : Int)) % 128).toNat ∧
      (byteSum (addedBytes ws) + t.csum.toNat % 128) % 128 = 0) ∧
  (∀ ws ws' : List Word, ws.Perm ws' → byteSum (addedBytes ws) = byteSum (addedBytes ws')) ∧
  ∀ (b : Byte) (s : State), ∃ t, exec (.ckadd b) s = .next t ∧ (t.csum = s.csum ↔ b = 0x00#8) ∧
    (b = 0x80#8 → t.csum = s.csum ^^^ 0x80#8 ∧ t.trailer = s.trailer)

/-- `44_checksum.md` R168: for all record bytes there is one trailer such that an encoder that has issued CKCLR and a
CKADD of each byte, among whatever other commands but CKCLR, reads it with CKRD, and a decoder that has done the same
and then compares it with CKCMP gets `CKM` = 0. -/
def Obligations.EncodedTrailerMatchesOnDecode : Prop :=
  ∀ bs : List Byte, ∃ trailer : Byte, ∀ (ws : List Word) (s : State) (rest : List HostAction),
    addedBytes ws = bs → (∀ c ∈ ws, decode c ≠ .ok .ckclr) →
    (s.pending = (encode .ckclr :: ws ++ [encode .ckrd]).map .command ++ rest →
      ∃ (t : State) (w : Word), core.run (ws.length + 2) s = .next t ∧ t.responses.getLast? = some w ∧
        w.extractLsb' 0 8 = trailer) ∧
    (s.pending = (encode .ckclr :: ws ++ [encode (.ckcmp trailer)]).map .command ++ rest →
      ∃ (t : State) (w : Word), core.run (ws.length + 2) s = .next t ∧ t.responses.getLast? = some w ∧
        w.getLsbD 27 = false)

/-! ### What commands may change -/

/-- `10_state.md` R28: CSUM is written by CKCLR to 0 and by CKADD to `CSUM - byte`, by no other command, and is 0 at
reset. -/
def Obligations.CsumIsWrittenOnlyByCkclrAndCkadd : Prop :=
  State.reset.csum = 0 ∧ ∀ (i : Instr) (s t : State), exec i s = .next t →
    (i = .ckclr → t.csum = 0) ∧ (∀ b, i = .ckadd b → t.csum = s.csum - b) ∧
    (i ≠ .ckclr → (∀ b, i ≠ .ckadd b) → t.csum = s.csum)

/-- `10_state.md` R23, the column set by: which command turns which flag on. -/
def Obligations.WhatSetsEachStatusFlag : Prop :=
  ∀ (i : Instr) (s t : State), exec i s = .next t →
    (s.status.err = false → t.status.err = true → rangeError i = true ∨
      ∃ b, i = .ckcmp b ∧ b.toNat ≠ s.csum.toNat % 128 ∧ s.ctrl.ckenf = true) ∧
    (s.status.ckbad = false → t.status.ckbad = true → ∃ b, i = .ckcmp b ∧ b.toNat ≠ s.csum.toNat % 128) ∧
    (s.status.ill = false → t.status.ill = true → i.wellFormed = false)

/-- `10_state.md` R23: a flag that is set stays set over a step, unless the host resets the block or the command is an
STCLR whose mask names it; steps that run no command keep it by the model's choice (log entries 2 and 3). -/
def Obligations.StatusFlagsAreSticky : Prop :=
  ∀ s t : State, step s = .next t → s.pending.head? ≠ some .reset →
    (s.status.err = true →
      (∀ c mask, s.pending.head? = some (.command c) → decode c = .ok (.stclr mask) → mask.getLsbD 0 = false) →
      t.status.err = true) ∧
    (s.status.ckbad = true →
      (∀ c mask, s.pending.head? = some (.command c) → decode c = .ok (.stclr mask) → mask.getLsbD 1 = false) →
      t.status.ckbad = true) ∧
    (s.status.ill = true →
      (∀ c mask, s.pending.head? = some (.command c) → decode c = .ok (.stclr mask) → mask.getLsbD 2 = false) →
      t.status.ill = true)

/-- `10_state.md` R25: what a command answers and does to CSUM and CTRL does not depend on STATUS, but for STRD and
STCLR, whose answer is STATUS. -/
def Obligations.ResultsDoNotDependOnStatus : Prop :=
  ∀ (i : Instr) (s : State) (status : StatusReg), i ≠ .strd → (∀ mask, i ≠ .stclr mask) →
    ∃ t t' : State, exec i s = .next t ∧ exec i { s with status := status } = .next t' ∧
      t'.responses = t.responses ∧ t'.csum = t.csum ∧ t'.ctrl = t.ctrl

/-- `20_memory.md` R42 and R51 over a whole command list: as many responses as commands, in order behind the earlier
ones. The clauses on `index` and `pending` are the model's bookkeeping (log entries 2 and 5). -/
def Obligations.CommandListAnswersInOrder : Prop :=
  ∀ (ws : List Word) (s : State) (rest : List HostAction), s.pending = ws.map .command ++ rest →
    ∃ (t : State) (rs : List Word), core.run ws.length s = .next t ∧ t.responses = s.responses ++ rs ∧
      rs.length = ws.length ∧ t.pending = rest ∧ t.index = s.index + ws.length

/-- `20_memory.md` R49: issuing a command that writes no state, or an unpack without a range error, a second time gives
the same response again and leaves the same state. -/
def Obligations.StatelessCommandsAreIdempotent : Prop :=
  ∀ (i : Instr) (s : State), (isStateless i = true ∨ isUnpack i = true ∧ rangeError i = false) →
    ∃ w : Word, exec i s = .next (s.answering w) ∧
      exec i (s.answering w) = .next ((s.answering w).answering w)

/-- `10_state.md` R24: cleared by STCLR before a record, ERR is set after any list of unpack commands exactly when one of
them met a range error; the order of the fields does not matter. -/
def Obligations.ErrAccumulatesOverARecord : Prop :=
  ∀ (is : List Instr) (s : State) (rest : List HostAction), (∀ i ∈ is, isUnpack i = true) →
    s.Presents (.stclr 1#8 :: is) rest →
    ∃ t : State, core.run (is.length + 1) s = .next t ∧ t.status.err = is.any rangeError ∧ t.csum = s.csum ∧
      t.status.ckbad = s.status.ckbad ∧ t.status.ill = s.status.ill

/-! ### Invariants that every step keeps -/

/-- `20_memory.md` R42: responses taken and waiting are as many as the commands since reset. The count and the list of
taken responses are the model's bookkeeping (log entries 3 and 5). -/
def Obligations.StepKeepsResponsesAccounted : Prop :=
  ∀ s t : State, s.Accounted → step s = .next t → t.Accounted

/-- `30_encoding.md` R63, `41_unpack.md` R114, `60_exceptions.md` R216: only legal response words are ever sent. -/
def Obligations.StepKeepsResponsesLegal : Prop :=
  ∀ s t : State, s.ResponsesLegal → step s = .next t → t.ResponsesLegal

/-- Both invariants hold at reset. -/
def Obligations.InvariantsHoldAtReset : Prop := State.reset.Accounted ∧ State.reset.ResponsesLegal

/-! ### Lanes -/

/-- `47_arithmetic_laws_and_absent_families.md` R222: a signed lane is read back as the number it was made from. -/
def Obligations.TwosComplementLaneReadsBack : Prop :=
  (∀ i : Int, -128 ≤ i → i ≤ 127 → sext8 (tc8 i) = i) ∧ ∀ v : Byte, -128 ≤ sext8 v ∧ sext8 v ≤ 127 ∧ tc8 (sext8 v) = v

end
end

