-- ==== Sys2Proof/Laws/Encoding.lean ====
section
/-! SUPPORT. The parts of a command word, and which of them a command's own word has. -/

namespace Sys2Proof

/-- The fields of a word made of an opcode and three lanes. -/
@[simp] theorem opOf_append (op : Byte) (x : BitVec 24) : opOf (op ++ x) = op := by
  apply BitVec.eq_of_getLsbD_eq
  intro i hi
  simp only [opOf, BitVec.getLsbD_extractLsb', BitVec.getLsbD_append]
  simp [hi]

theorem extract_operands (op : Byte) (x : BitVec 24) : (op ++ x).extractLsb' 0 24 = x := by
  apply BitVec.eq_of_getLsbD_eq
  intro i hi
  simp only [BitVec.getLsbD_extractLsb', BitVec.getLsbD_append]
  simp [hi]

@[simp] theorem lane0_append (op f2 f1 f0 : Byte) : lane0 (op ++ (f2 ++ f1 ++ f0)) = f0 := by
  apply BitVec.eq_of_getLsbD_eq
  intro i hi
  simp only [lane0, BitVec.getLsbD_extractLsb', BitVec.getLsbD_append]
  simp [hi, show i < 24 by omega]

@[simp] theorem lane1_append (op f2 f1 f0 : Byte) : lane1 (op ++ (f2 ++ f1 ++ f0)) = f1 := by
  apply BitVec.eq_of_getLsbD_eq
  intro i hi
  simp only [lane1, BitVec.getLsbD_extractLsb', BitVec.getLsbD_append]
  simp [hi, show 8 + i < 24 by omega]

@[simp] theorem lane2_append (op f2 f1 f0 : Byte) : lane2 (op ++ (f2 ++ f1 ++ f0)) = f2 := by
  apply BitVec.eq_of_getLsbD_eq
  intro i hi
  simp only [lane2, BitVec.getLsbD_extractLsb', BitVec.getLsbD_append]
  simp [hi, show 16 + i < 24 by omega, show ¬ 16 + i - 8 < 8 by omega, show ¬ 16 + i < 8 by omega,
    show 16 + i - 8 - 8 = i by omega]

/-- A word is its opcode and its three lanes (`30_encoding.md` R61). -/
theorem word_eq_append (c : Word) : c = opOf c ++ (lane2 c ++ lane1 c ++ lane0 c) := by
  apply BitVec.eq_of_getLsbD_eq
  intro i hi
  simp only [opOf, lane0, lane1, lane2, BitVec.getLsbD_append, BitVec.getLsbD_extractLsb']
  interval_cases i <;> simp

/-- Lane 1 of formats X and I is the width and the position (`30_encoding.md` R62). -/
theorem lane1_eq_append (c : Word) : lane1 c = widthOf c ++ positionOf c := by
  apply BitVec.eq_of_getLsbD_eq
  intro i hi
  simp only [lane1, widthOf, positionOf, BitVec.getLsbD_append, BitVec.getLsbD_extractLsb']
  interval_cases i <;> simp

/-- Two words are equal when their four bytes are. -/
theorem word_ext (c d : Word) (h3 : opOf c = opOf d) (h2 : lane2 c = lane2 d) (h1 : lane1 c = lane1 d)
    (h0 : lane0 c = lane0 d) : c = d := by
  rw [word_eq_append c, word_eq_append d, h3, h2, h1, h0]

/-- The opcode of a command's own word. -/
@[simp] theorem opOf_encode (i : Instr) : opOf (encode i) = opcode i := by simp [encode]

/-- The geometry check of R91 is the one of the statements and of `Instr.wellFormed`. -/
theorem legalGeometry_iff (lo w : BitVec 4) : legalGeometry lo w = true ↔ LegalField lo.toNat w.toNat := by
  simp [legalGeometry, LegalField]

theorem wellFormed_bfx (b : Byte) (lo w : BitVec 4) : (Instr.bfx b lo w).wellFormed = legalGeometry lo w := by
  simp only [Instr.wellFormed, legalGeometry]
  congr 1
  simp only [eq_iff_iff]
  omega

theorem wellFormed_bfi (b v : Byte) (lo w : BitVec 4) : (Instr.bfi b lo w v).wellFormed = legalGeometry lo w := by
  simp only [Instr.wellFormed, legalGeometry]
  congr 1
  simp only [eq_iff_iff]
  omega

/-- Extract and insert write no state exactly when their geometry is legal. -/
theorem isStateless_bfx (b : Byte) (lo w : BitVec 4) : isStateless (.bfx b lo w) = legalGeometry lo w := rfl

theorem isStateless_bfi (b v : Byte) (lo w : BitVec 4) : isStateless (.bfi b lo w v) = legalGeometry lo w := rfl

end Sys2Proof
end

