-- ==== Sys2Proof/Laws/State.lean ====
section
/-! SUPPORT. One lemma per field per update of State, so that no later proof unfolds a record update. -/

namespace Sys2Proof.Machine

/-! ### `State.raiseErr` -/

@[simp] theorem State.raiseErr_csum (s : State) (c : Bool) : (s.raiseErr c).csum = s.csum := rfl
@[simp] theorem State.raiseErr_status (s : State) (c : Bool) :
    (s.raiseErr c).status = { s.status with err := s.status.err || c } := rfl
@[simp] theorem State.raiseErr_ctrl (s : State) (c : Bool) : (s.raiseErr c).ctrl = s.ctrl := rfl
@[simp] theorem State.raiseErr_responses (s : State) (c : Bool) : (s.raiseErr c).responses = s.responses := rfl
@[simp] theorem State.raiseErr_received (s : State) (c : Bool) : (s.raiseErr c).received = s.received := rfl
@[simp] theorem State.raiseErr_pending (s : State) (c : Bool) : (s.raiseErr c).pending = s.pending := rfl
@[simp] theorem State.raiseErr_index (s : State) (c : Bool) : (s.raiseErr c).index = s.index := rfl

/-! ### `State.raiseCkbad` -/

@[simp] theorem State.raiseCkbad_csum (s : State) (c : Bool) : (s.raiseCkbad c).csum = s.csum := rfl
@[simp] theorem State.raiseCkbad_status (s : State) (c : Bool) :
    (s.raiseCkbad c).status = { s.status with ckbad := s.status.ckbad || c } := rfl
@[simp] theorem State.raiseCkbad_ctrl (s : State) (c : Bool) : (s.raiseCkbad c).ctrl = s.ctrl := rfl
@[simp] theorem State.raiseCkbad_responses (s : State) (c : Bool) : (s.raiseCkbad c).responses = s.responses := rfl
@[simp] theorem State.raiseCkbad_received (s : State) (c : Bool) : (s.raiseCkbad c).received = s.received := rfl
@[simp] theorem State.raiseCkbad_pending (s : State) (c : Bool) : (s.raiseCkbad c).pending = s.pending := rfl
@[simp] theorem State.raiseCkbad_index (s : State) (c : Bool) : (s.raiseCkbad c).index = s.index := rfl

/-! ### `State.raiseIll` -/

@[simp] theorem State.raiseIll_csum (s : State) : (s.raiseIll).csum = s.csum := rfl
@[simp] theorem State.raiseIll_status (s : State) : (s.raiseIll).status = { s.status with ill := true } := rfl
@[simp] theorem State.raiseIll_ctrl (s : State) : (s.raiseIll).ctrl = s.ctrl := rfl
@[simp] theorem State.raiseIll_responses (s : State) : (s.raiseIll).responses = s.responses := rfl
@[simp] theorem State.raiseIll_received (s : State) : (s.raiseIll).received = s.received := rfl
@[simp] theorem State.raiseIll_pending (s : State) : (s.raiseIll).pending = s.pending := rfl
@[simp] theorem State.raiseIll_index (s : State) : (s.raiseIll).index = s.index := rfl

/-! ### `State.writeCtrl` -/

@[simp] theorem State.writeCtrl_csum (s : State) (v : Byte) : (s.writeCtrl v).csum = s.csum := rfl
@[simp] theorem State.writeCtrl_status (s : State) (v : Byte) : (s.writeCtrl v).status = s.status := rfl
@[simp] theorem State.writeCtrl_ctrl (s : State) (v : Byte) : (s.writeCtrl v).ctrl = { ckenf := v.getLsbD 0 } := rfl
@[simp] theorem State.writeCtrl_responses (s : State) (v : Byte) : (s.writeCtrl v).responses = s.responses := rfl
@[simp] theorem State.writeCtrl_received (s : State) (v : Byte) : (s.writeCtrl v).received = s.received := rfl
@[simp] theorem State.writeCtrl_pending (s : State) (v : Byte) : (s.writeCtrl v).pending = s.pending := rfl
@[simp] theorem State.writeCtrl_index (s : State) (v : Byte) : (s.writeCtrl v).index = s.index := rfl

/-! ### `State.clearStatus` -/

@[simp] theorem State.clearStatus_csum (s : State) (m : Byte) : (s.clearStatus m).csum = s.csum := rfl
@[simp] theorem State.clearStatus_status (s : State) (m : Byte) :
    (s.clearStatus m).status = ⟨s.status.err && !m.getLsbD 0, s.status.ckbad && !m.getLsbD 1, s.status.ill && !m.getLsbD 2⟩ := rfl
@[simp] theorem State.clearStatus_ctrl (s : State) (m : Byte) : (s.clearStatus m).ctrl = s.ctrl := rfl
@[simp] theorem State.clearStatus_responses (s : State) (m : Byte) : (s.clearStatus m).responses = s.responses := rfl
@[simp] theorem State.clearStatus_received (s : State) (m : Byte) : (s.clearStatus m).received = s.received := rfl
@[simp] theorem State.clearStatus_pending (s : State) (m : Byte) : (s.clearStatus m).pending = s.pending := rfl
@[simp] theorem State.clearStatus_index (s : State) (m : Byte) : (s.clearStatus m).index = s.index := rfl

/-! ### `State.offer` -/

@[simp] theorem State.offer_csum (s : State) (w : Word) : (s.offer w).csum = s.csum := rfl
@[simp] theorem State.offer_status (s : State) (w : Word) : (s.offer w).status = s.status := rfl
@[simp] theorem State.offer_ctrl (s : State) (w : Word) : (s.offer w).ctrl = s.ctrl := rfl
@[simp] theorem State.offer_responses (s : State) (w : Word) : (s.offer w).responses = s.responses ++ [w] := rfl
@[simp] theorem State.offer_received (s : State) (w : Word) : (s.offer w).received = s.received := rfl
@[simp] theorem State.offer_pending (s : State) (w : Word) : (s.offer w).pending = s.pending := rfl
@[simp] theorem State.offer_index (s : State) (w : Word) : (s.offer w).index = s.index + 1 := rfl

/-! ### `State.respond` -/

@[simp] theorem State.respond_csum (s : State) (r : Response) : (s.respond r).csum = s.csum := rfl
@[simp] theorem State.respond_status (s : State) (r : Response) : (s.respond r).status = s.status := rfl
@[simp] theorem State.respond_ctrl (s : State) (r : Response) : (s.respond r).ctrl = s.ctrl := rfl
@[simp] theorem State.respond_responses (s : State) (r : Response) :
    (s.respond r).responses = s.responses ++ [r.word] := rfl
@[simp] theorem State.respond_received (s : State) (r : Response) : (s.respond r).received = s.received := rfl
@[simp] theorem State.respond_pending (s : State) (r : Response) : (s.respond r).pending = s.pending := rfl
@[simp] theorem State.respond_index (s : State) (r : Response) : (s.respond r).index = s.index + 1 := rfl

/-! ### `State.takeIllegal` -/

@[simp] theorem State.takeIllegal_csum (s : State) : (s.takeIllegal).csum = s.csum := rfl
@[simp] theorem State.takeIllegal_status (s : State) : (s.takeIllegal).status = { s.status with ill := true } := rfl
@[simp] theorem State.takeIllegal_ctrl (s : State) : (s.takeIllegal).ctrl = s.ctrl := rfl
@[simp] theorem State.takeIllegal_responses (s : State) :
    (s.takeIllegal).responses = s.responses ++ [illegalWord] := rfl
@[simp] theorem State.takeIllegal_received (s : State) : (s.takeIllegal).received = s.received := rfl
@[simp] theorem State.takeIllegal_pending (s : State) : (s.takeIllegal).pending = s.pending := rfl
@[simp] theorem State.takeIllegal_index (s : State) : (s.takeIllegal).index = s.index + 1 := rfl

/-! ### `State.proceed` -/

@[simp] theorem State.proceed_csum (s : State) (rest : List HostAction) : (s.proceed rest).csum = s.csum := rfl
@[simp] theorem State.proceed_status (s : State) (rest : List HostAction) : (s.proceed rest).status = s.status := rfl
@[simp] theorem State.proceed_ctrl (s : State) (rest : List HostAction) : (s.proceed rest).ctrl = s.ctrl := rfl
@[simp] theorem State.proceed_responses (s : State) (rest : List HostAction) :
    (s.proceed rest).responses = s.responses := rfl
@[simp] theorem State.proceed_received (s : State) (rest : List HostAction) :
    (s.proceed rest).received = s.received := rfl
@[simp] theorem State.proceed_pending (s : State) (rest : List HostAction) : (s.proceed rest).pending = rest := rfl
@[simp] theorem State.proceed_index (s : State) (rest : List HostAction) : (s.proceed rest).index = s.index := rfl

/-! ### `State.offerCommand` -/

@[simp] theorem State.offerCommand_csum (s : State) (c : Word) : (s.offerCommand c).csum = s.csum := rfl
@[simp] theorem State.offerCommand_status (s : State) (c : Word) : (s.offerCommand c).status = s.status := rfl
@[simp] theorem State.offerCommand_ctrl (s : State) (c : Word) : (s.offerCommand c).ctrl = s.ctrl := rfl
@[simp] theorem State.offerCommand_responses (s : State) (c : Word) :
    (s.offerCommand c).responses = s.responses := rfl
@[simp] theorem State.offerCommand_received (s : State) (c : Word) : (s.offerCommand c).received = s.received := rfl
@[simp] theorem State.offerCommand_pending (s : State) (c : Word) :
    (s.offerCommand c).pending = .command c :: s.pending := rfl
@[simp] theorem State.offerCommand_index (s : State) (c : Word) : (s.offerCommand c).index = s.index := rfl

/-! ### `State.answering` -/

@[simp] theorem State.answering_csum (s : State) (w : Word) : (s.answering w).csum = s.csum := rfl
@[simp] theorem State.answering_status (s : State) (w : Word) : (s.answering w).status = s.status := rfl
@[simp] theorem State.answering_ctrl (s : State) (w : Word) : (s.answering w).ctrl = s.ctrl := rfl
@[simp] theorem State.answering_responses (s : State) (w : Word) :
    (s.answering w).responses = s.responses ++ [w] := rfl
@[simp] theorem State.answering_received (s : State) (w : Word) : (s.answering w).received = s.received := rfl
@[simp] theorem State.answering_pending (s : State) (w : Word) : (s.answering w).pending = s.pending := rfl
@[simp] theorem State.answering_index (s : State) (w : Word) : (s.answering w).index = s.index + 1 := rfl

end Sys2Proof.Machine
end

