-- ==== Sys2Proof/Laws/Ops.lean ====
section
/-! SUPPORT. For each shared operation, what it does, said once. -/

namespace Sys2Proof.Machine

/-! ### Field primitives -/

theorem onesMask_getLsbD (w i : Nat) (hw : w ≤ 8) : (onesMask w).getLsbD i = decide (i < w) := by
  unfold onesMask
  rw [BitVec.getLsbD_ofNat, Nat.testBit_two_pow_sub_one]
  by_cases h : i < w
  · have : i < 8 := by omega
    simp [h, this]
  · simp [h]

theorem ext_getLsbD (b : Byte) (lo w i : Nat) (hw : w ≤ 8) :
    (ext b lo w).getLsbD i = (decide (i < w) && b.getLsbD (lo + i)) := by
  unfold ext
  rw [BitVec.getLsbD_and, BitVec.getLsbD_ushiftRight, onesMask_getLsbD w i hw, Bool.and_comm]

theorem ext_toNat (b : Byte) (lo w : Nat) (hw : w ≤ 8) : (ext b lo w).toNat = b.toNat / 2 ^ lo % 2 ^ w := by
  have hp : 2 ^ w ≤ 2 ^ 8 := Nat.pow_le_pow_right (by decide) hw
  have hp' : 0 < 2 ^ w := Nat.two_pow_pos w
  have hm : (2 ^ w - 1) % 2 ^ 8 = 2 ^ w - 1 := Nat.mod_eq_of_lt (by omega)
  unfold ext onesMask
  rw [BitVec.toNat_and, BitVec.toNat_ushiftRight, BitVec.toNat_ofNat, hm, Nat.and_two_pow_sub_one_eq_mod,
    Nat.shiftRight_eq_div_pow]

theorem ins_getLsbD (b v : Byte) (lo w i : Nat) (h : lo + w ≤ 8) :
    (ins b lo w v).getLsbD i =
      if lo ≤ i ∧ i < lo + w then v.getLsbD (i - lo) else b.getLsbD i := by
  unfold ins
  rw [BitVec.getLsbD_or, BitVec.getLsbD_and, BitVec.getLsbD_not, BitVec.getLsbD_shiftLeft, BitVec.getLsbD_shiftLeft,
    BitVec.getLsbD_and, onesMask_getLsbD w _ (by omega)]
  by_cases h8 : i < 8
  · by_cases h1 : i < lo
    · simp [h1, h8, Nat.not_le.mpr h1]
    · by_cases h2 : i < lo + w
      · have : i - lo < w := by omega
        simp [h1, h8, h2, this, Nat.not_lt.mp h1]
      · have : ¬ i - lo < w := by omega
        simp [h1, h8, h2, this]
  · have hb : b.getLsbD i = false := BitVec.getLsbD_of_ge b i (by omega)
    have : ¬ (lo ≤ i ∧ i < lo + w) := by omega
    simp [h8, hb, this]

/-- `ins` as numbers: the bits below and above the field are kept. -/
theorem ins_toNat (b v : Byte) (lo w : Nat) (h : lo + w ≤ 8) :
    (ins b lo w v).toNat =
      b.toNat % 2 ^ lo + 2 ^ lo * (v.toNat % 2 ^ w) + 2 ^ (lo + w) * (b.toNat / 2 ^ (lo + w)) := by
  have hb : b.toNat % 2 ^ lo < 2 ^ lo := Nat.mod_lt _ (Nat.two_pow_pos lo)
  have hv : v.toNat % 2 ^ w < 2 ^ w := Nat.mod_lt _ (Nat.two_pow_pos w)
  have hlow : 2 ^ lo * (v.toNat % 2 ^ w) + b.toNat % 2 ^ lo < 2 ^ (lo + w) := by
    have h3 : 2 ^ lo * (v.toNat % 2 ^ w + 1) ≤ 2 ^ lo * 2 ^ w := Nat.mul_le_mul_left _ hv
    rw [Nat.mul_add] at h3
    rw [Nat.pow_add]
    omega
  have hord : b.toNat % 2 ^ lo + 2 ^ lo * (v.toNat % 2 ^ w) + 2 ^ (lo + w) * (b.toNat / 2 ^ (lo + w)) =
      2 ^ (lo + w) * (b.toNat / 2 ^ (lo + w)) + (2 ^ lo * (v.toNat % 2 ^ w) + b.toNat % 2 ^ lo) := by ring
  rw [hord]
  apply Nat.eq_of_testBit_eq
  intro i
  have hi := ins_getLsbD b v lo w i h
  rw [BitVec.getLsbD] at hi
  rw [Nat.testBit_two_pow_mul_add _ hlow, Nat.testBit_two_pow_mul_add _ hb, hi, Nat.testBit_mod_two_pow,
    Nat.testBit_mod_two_pow, Nat.testBit_div_two_pow]
  by_cases h1 : i < lo
  · simp [h1, show ¬ lo ≤ i by omega, show i < lo + w by omega, BitVec.getLsbD]
  · by_cases h2 : i < lo + w
    · simp [h1, h2, show lo ≤ i by omega, show i - lo < w by omega, BitVec.getLsbD]
    · simp [h2, BitVec.getLsbD, show i - (lo + w) + (lo + w) = i by omega]

/-- A clamped value is inside a non-empty range. -/
theorem clamp_mem (v lo hi : Int) (h : lo ≤ hi) : lo ≤ clamp v lo hi ∧ clamp v lo hi ≤ hi := by
  unfold clamp
  split
  · omega
  · split <;> omega

/-- A value inside the range is neither flagged nor changed. -/
theorem clamp_of_not_oor (v lo hi : Int) (h : oor v lo hi = false) : clamp v lo hi = v := by
  unfold oor at h
  unfold clamp
  have := of_decide_eq_false h
  rw [if_neg (by omega), if_neg (by omega)]

/-! ### The response word -/

/-- Bit `i` of a response word, by the part of the word it lies in (`30_encoding.md` R63). -/
theorem response_word_getLsbD (r : Response) (i : Nat) :
    r.word.getLsbD i =
      if i < 8 then r.r0.getLsbD i else if i < 16 then r.r1.getLsbD (i - 8) else if i < 24 then r.r2.getLsbD (i - 16)
      else if i = 24 then r.e0 else if i = 25 then r.e1 else if i = 26 then r.e2 else if i = 27 then r.ckm else false := by
  unfold Response.word
  by_cases h : i < 28
  · interval_cases i <;> simp only [BitVec.getLsbD_append] <;> simp
  · have h' : ∀ k, k < 28 → ¬ i < k := fun k hk => by omega
    have : ∀ k, k < 28 → i ≠ k := fun k hk => by omega
    simp only [BitVec.getLsbD_append]
    simp [h' 8, h' 16, h' 24, this 24, this 25, this 26, this 27, Nat.sub_sub,
      show ¬ i - 8 < 8 by omega, show ¬ i - 16 < 8 by omega, show ¬ i - 24 < 1 by omega, show ¬ i - 25 < 1 by omega,
      show ¬ i - 26 < 1 by omega, show ¬ i - 27 < 1 by omega]

theorem response_word_lanes (r : Response) :
    r.word.extractLsb' 0 8 = r.r0 ∧ r.word.extractLsb' 8 8 = r.r1 ∧ r.word.extractLsb' 16 8 = r.r2 := by
  refine ⟨?_, ?_, ?_⟩ <;> apply BitVec.eq_of_getLsbD_eq <;> intro i hi <;>
    rw [BitVec.getLsbD_extractLsb', response_word_getLsbD] <;>
    simp [hi, show 8 + i < 16 by omega, show ¬ 16 + i < 8 by omega, show ¬ 16 + i < 16 by omega,
      show 16 + i < 24 by omega]

theorem response_word_flags (r : Response) :
    r.word.getLsbD 24 = r.e0 ∧ r.word.getLsbD 25 = r.e1 ∧ r.word.getLsbD 26 = r.e2 ∧ r.word.getLsbD 27 = r.ckm := by
  refine ⟨?_, ?_, ?_, ?_⟩ <;> rw [response_word_getLsbD] <;> simp only [reduceIte, Nat.reduceLT, Nat.reduceEqDiff]

theorem response_word_top (r : Response) : r.word.extractLsb' 28 4 = 0#4 := by
  apply BitVec.eq_of_getLsbD_eq
  intro i hi
  rw [BitVec.getLsbD_extractLsb', response_word_getLsbD]
  simp [show ¬ 28 + i < 8 by omega, show ¬ 28 + i < 16 by omega, show ¬ 28 + i < 24 by omega,
     show 28 + i ≠ 24 by omega, show 28 + i ≠ 25 by omega,
    show 28 + i ≠ 26 by omega, show 28 + i ≠ 27 by omega]

/-- Two parts of a word, as numbers. -/
theorem append_toNat {n m : Nat} (x : BitVec n) (y : BitVec m) : (x ++ y).toNat = x.toNat * 2 ^ m + y.toNat := by
  rw [BitVec.toNat_append, ← Nat.shiftLeft_add_eq_or_of_lt y.isLt, Nat.shiftLeft_eq]

theorem response_word_toNat (r : Response) :
    r.word.toNat = r.r0.toNat + 2 ^ 8 * r.r1.toNat + 2 ^ 16 * r.r2.toNat + 2 ^ 24 * r.e0.toNat + 2 ^ 25 * r.e1.toNat
      + 2 ^ 26 * r.e2.toNat + 2 ^ 27 * r.ckm.toNat := by
  unfold Response.word
  simp only [append_toNat, BitVec.toNat_ofBool, BitVec.toNat_ofNat]
  omega

/-- The response word as the number the statements write it as. -/
theorem response_word_eq_wordOf (r : Response) :
    r.word = wordOf r.r0.toNat r.r1.toNat r.r2.toNat r.e0 r.e1 r.e2 r.ckm := by
  apply BitVec.eq_of_toNat_eq
  have h := r.word.isLt
  rw [response_word_toNat] at h
  rw [response_word_toNat, wordOf, BitVec.toNat_ofNat, Nat.mod_eq_of_lt h]

/-! ### The size field -/

/-- The decoded size as a number (`43_size_field.md` R151). -/
theorem decodedSize_toNat (second first : Byte) :
    (decodedSize second first).toNat = first.toNat <<< 7 ||| second.toNat := by
  have h1 : first.toNat * 128 % 32768 = first.toNat * 128 := by have := first.isLt; omega
  have h2 : second.toNat % 32768 = second.toNat := by have := second.isLt; omega
  simp [decodedSize, BitVec.toNat_or, BitVec.toNat_shiftLeft, Nat.shiftLeft_eq, h1, h2]

/-- Both size bytes are below 128, and they are the two base-128 digits of the size. -/
theorem sizeBytes_toNat (size : BitVec 14) :
    (sizeFirst size).toNat = size.toNat / 128 ∧ (sizeSecond size).toNat = size.toNat % 128 := by
  have := size.isLt
  simp only [sizeFirst, sizeSecond, BitVec.toNat_setWidth, BitVec.extractLsb'_toNat, Nat.shiftRight_eq_div_pow]
  omega

/-! ### The two shared bodies -/

/-- What an unpack does: the lanes and flags of the format, and the sticky ERR. -/
theorem unpackByte_eq (f : Format) (b : Byte) (s : State) :
    unpackByte f b s = { s with status :=
      { s.status with err := s.status.err || ((f.unpack b).e0 || (f.unpack b).e1 || (f.unpack b).e2) } }.answering
        (f.unpack b).word := rfl

/-- What a pack does: one response whose lane 0 is the byte. -/
theorem packLanes_eq (f : Format) (v0 v1 v2 : Byte) (s : State) :
    packLanes f v0 v1 v2 s = s.answering (Response.word { r0 := f.pack v0 v1 v2 }) := rfl

/-- What the illegal outcome does. -/
theorem takeIllegal_eq (s : State) : s.takeIllegal = s.illegalAfter := rfl

/-- What a response does. -/
theorem respond_eq (r : Response) (s : State) : s.respond r = s.answering r.word := rfl

/-- Handing over a response with one waiting. -/
theorem deliver_cons (s : State) (w : Word) (ws : List Word) (h : s.responses = w :: ws) :
    s.deliver = { s with responses := ws, received := s.received ++ [w] } := by
  simp [State.deliver, h]

/-- Handing over a response with none waiting. -/
theorem deliver_nil (s : State) (h : s.responses = []) : s.deliver = s := by simp [State.deliver, h]

/-! ### The step -/

/-- What a step can do: wait, hand over a response, reset, or run one command word. -/
theorem step_cases (s t : State) (h : step s = .next t) :
    (s.pending = [] ∧ t = s) ∨
    (∃ rest, s.pending = .takeResponse :: rest ∧ t = (s.proceed rest).deliver) ∨
    (∃ rest, s.pending = .reset :: rest ∧ t = State.resetWith rest) ∨
    (∃ c rest, s.pending = .command c :: rest ∧ runWord c (s.proceed rest) = .next t) := by
  unfold step at h
  split at h
  · rename_i hp
    exact .inl ⟨hp, by cases h; rfl⟩
  · rename_i a rest hp
    cases a with
    | command c => exact .inr (.inr (.inr ⟨c, rest, hp, h⟩))
    | takeResponse => exact .inr (.inl ⟨rest, hp, by cases h; rfl⟩)
    | reset => exact .inr (.inr (.inl ⟨rest, hp, by cases h; rfl⟩))

/-- Running a word is running the command it decodes to, or the illegal outcome. -/
theorem runWord_cases (c : Word) (s : State) :
    (∃ i, decode c = .ok i ∧ runWord c s = exec i s) ∨
    (∃ e, decode c = .error e ∧ runWord c s = .next s.takeIllegal) := by
  unfold runWord
  cases h : decode c with
  | ok i => exact .inl ⟨i, rfl, rfl⟩
  | error e => exact .inr ⟨e, rfl, rfl⟩

end Sys2Proof.Machine
end

