-- ==== Sys2Proof/Machine/HostReference.lean ====
section
/-! DEFINITION. The host's side of the wire format (`46_record_layout_reference.md`): which command serves which byte
of a record, the command lists of a record and an envelope, and the bytes an encoder writes. The block knows nothing of it and the step does not
use it; the diagnostics, the value model and the envelope state machine are out of scope (`00_scope.md` R6; log entry
13). -/

namespace Sys2Proof.Machine

/-- A voice record: exactly 128 bytes (R193, R200). -/
abbrev Record := Vector Byte 128

/-- The field values of the 128 bytes of a record, those of each byte in lane order; a name byte is its lane 0. -/
abbrev RecordFields := Vector (Byte × Byte × Byte) 128

/-- The format of one byte of a voice record (R194, R195). -/
inductive ByteFormat where
  | u99 | curve | dtrs | sens | osc | alg | fbks | lfo | trn
  /-- A name byte: no unpack and no pack command (R192, R195). -/
  | name
deriving DecidableEq, Repr

/-- The record offset of the block of operator `k`, 1 to 6: operator 6 comes first (R193). -/
def operatorBlockOffset (k : Nat) : Nat := 17 * (6 - k)

/-- The format of byte 0 to 16 of an operator block (R194). -/
def operatorByteFormat : Nat → ByteFormat
  | 11 => .curve
  | 12 => .dtrs
  | 13 => .sens
  | 15 => .osc
  | _ => .u99

/-- The format of record byte 102 to 127 (R195). -/
def tailByteFormat (offset : Nat) : ByteFormat :=
  match offset with
  | 110 => .alg
  | 111 => .fbks
  | 116 => .lfo
  | 117 => .trn
  | n => if n < 118 then .u99 else .name

/-- The format of record byte 0 to 127 (R193 to R195). -/
def recordByteFormat (offset : Nat) : ByteFormat :=
  if offset < 102 then operatorByteFormat (offset % 17) else tailByteFormat offset

/-- The decode column of R194 and R195. -/
def ByteFormat.decodeCommand (f : ByteFormat) (b : Byte) : Option Instr :=
  match f with
  | .u99 => some (.unpkU99 b)
  | .curve => some (.unpkCurve b)
  | .dtrs => some (.unpkDtrs b)
  | .sens => some (.unpkSens b)
  | .osc => some (.unpkOsc b)
  | .alg => some (.unpkAlg b)
  | .fbks => some (.unpkFbks b)
  | .lfo => some (.unpkLfo b)
  | .trn => some (.unpkTrn b)
  | .name => none

/-- The encode column of R194 and R195, for the field values in lane order. -/
def ByteFormat.encodeCommand (f : ByteFormat) (v0 v1 v2 : Byte) : Option Instr :=
  match f with
  | .u99 => some (.packU99 v0)
  | .curve => some (.packCurve v0 v1)
  | .dtrs => some (.packDtrs v0 v1)
  | .sens => some (.packSens v0 v1)
  | .osc => some (.packOsc v0 v1)
  | .alg => some (.packAlg v0)
  | .fbks => some (.packFbks v0 v1)
  | .lfo => some (.packLfo v0 v1 v2)
  | .trn => some (.packTrn v0)
  | .name => none

/-- The byte the encode command answers; a name byte travels as it is (R198). -/
def ByteFormat.packedByte (f : ByteFormat) (v0 v1 v2 : Byte) : Byte :=
  match f with
  | .u99 => u99Format.pack v0 v1 v2
  | .curve => (curveFormat Config.curveLeftHigh).pack v0 v1 v2
  | .dtrs => dtrsFormat.pack v0 v1 v2
  | .sens => sensFormat.pack v0 v1 v2
  | .osc => oscFormat.pack v0 v1 v2
  | .alg => algFormat.pack v0 v1 v2
  | .fbks => fbksFormat.pack v0 v1 v2
  | .lfo => lfoFormat.pack v0 v1 v2
  | .trn => trnFormat.pack v0 v1 v2
  | .name => v0

/-- What the decoding host issues for the record bytes from `offset` on: CKADD, then the unpack of the byte (R197,
which leaves the order of the two open). -/
def decodeBytesFrom (offset : Nat) : List Byte → List Instr
  | [] => []
  | b :: bs => .ckadd b :: ((recordByteFormat offset).decodeCommand b).toList ++ decodeBytesFrom (offset + 1) bs

/-- The commands that decode one record (R197): clear ERR, accumulate and unpack every byte, read STATUS. -/
def recordDecodeCommands (record : Record) : List Instr :=
  .stclr 1#8 :: decodeBytesFrom 0 record.toList ++ [.strd]

/-- The record yields a voice exactly when ERR is 0 in the answer of its STRD (R199). -/
def recordAccepted (strdAnswer : Word) : Bool := !strdAnswer.getLsbD 0

/-- What the encoding host issues for the record bytes from `offset` on, given the field values of each byte in lane
order: the pack command, then CKADD of the byte written (R198). -/
def encodeBytesFrom (offset : Nat) : List (Byte × Byte × Byte) → List Instr
  | [] => []
  | (v0, v1, v2) :: rest =>
    ((recordByteFormat offset).encodeCommand v0 v1 v2).toList ++
      .ckadd ((recordByteFormat offset).packedByte v0 v1 v2) :: encodeBytesFrom (offset + 1) rest

/-- The record an encoder writes for these field values (R198). -/
def recordBytes (fields : RecordFields) : Record :=
  Vector.ofFn fun i => (recordByteFormat i).packedByte fields[i].1 fields[i].2.1 fields[i].2.2

/-- The commands that encode one record (R198). -/
def recordEncodeCommands (fields : RecordFields) : List Instr := encodeBytesFrom 0 fields.toList

/-! ### The envelope (R200 to R203) -/

/-- The value of the size field for `n` records, `128 n` bytes, when it is a 14-bit number (R200, R202). From 128
records on it is none: `43_size_field.md` R153 and `92_eei_decisions.md` D8 reject such a size and do not truncate it.
What a host does then the spec does not say; here it sends no bulk envelope (DESIGN CHOICE, log entry 19). -/
def bulkSize (n : Nat) : Option (BitVec 14) := if 128 * n < 2 ^ 14 then some (BitVec.ofNat 14 (128 * n)) else none

/-- The commands of a bulk decode of these records of the stream: size field, one CKCLR, as many records as the size
field says (`size / 128`), then the trailer (R200, R203). When fewer records are read, since the stream ends early or
a limit stops the decode, no CKCMP is issued (R204, `93_implementation_defined.md` U12). -/
def envelopeDecodeCommands (first second : Byte) (records : List Record) (trailer : Byte) : List Instr :=
  let count := (recordCount (decodedSize second first)).toNat
  [.unpkSize second first, .ckclr] ++ (records.take count).flatMap recordDecodeCommands ++
    (if count ≤ records.length then [.ckcmp trailer] else [])

/-- The commands of a whole bulk encode: `PACK.SIZE 128 n`, one CKCLR, the n records, CKRD (R202). There is no such
list for more than 127 records (DESIGN CHOICE, log entry 19). -/
def envelopeEncodeCommands (records : List RecordFields) : Option (List Instr) :=
  (bulkSize records.length).map fun size =>
    [.packSize size, .ckclr] ++ records.flatMap recordEncodeCommands ++ [.ckrd]

/-- The bulk wire format: header, format selector `0x09`, the two 7-bit size bytes that PACK.SIZE answers, most
significant first, the records of 128 bytes each, trailer, `F7` (R200). There is none for more than 127 records
(DESIGN CHOICE, log entry 19). -/
def envelopeBytes (records : List Record) (trailer : Byte) : Option (List Byte) :=
  (bulkSize records.length).map fun size =>
    [0xF0, 0x43, 0x00, 0x09, sizeFirst size, sizeSecond size] ++ records.flatMap (·.toList) ++ [trailer, 0xF7]

/-- The trailer of these record bytes: the answer of CKRD after CKCLR and a CKADD of each (R202, `44_checksum.md` R161,
R163). -/
def trailerOf (bytes : List Byte) : Byte := bytes.foldl (· - ·) 0 &&& 0x7F

/-- The bytes an encoder writes for these voices (R202). -/
def encodedEnvelope (records : List RecordFields) : Option (List Byte) :=
  envelopeBytes (records.map recordBytes) (trailerOf ((records.map recordBytes).flatMap (·.toList)))

end Sys2Proof.Machine
end

