-- ==== Sys2Proof/Laws/HostReference.lean ====
section
/-! SUPPORT. What the envelope of the host's reference is, said once. -/

namespace Sys2Proof.Machine

/-- The size field exists exactly for 0 to 127 records, and is then `128 n`. -/
theorem bulkSize_eq_some_iff (n : Nat) (size : BitVec 14) :
    bulkSize n = some size ↔ n ≤ 127 ∧ size.toNat = 128 * n := by
  unfold bulkSize
  split
  · rw [Option.some_inj, ← BitVec.toNat_inj, BitVec.toNat_ofNat]
    omega
  · simp only [reduceCtorEq, false_iff]
    omega

theorem bulkSize_eq_none_iff (n : Nat) : bulkSize n = none ↔ 127 < n := by
  unfold bulkSize
  split <;> simp <;> omega

/-- The record count a decoder reads from the size bytes of an envelope is the number of its records. -/
theorem recordCount_of_bulkSize (n : Nat) (size : BitVec 14) (h : bulkSize n = some size) :
    (recordCount (decodedSize (sizeSecond size) (sizeFirst size))).toNat = n := by
  obtain ⟨hn, hs⟩ := (bulkSize_eq_some_iff n size).1 h
  obtain ⟨h1, h0⟩ := sizeBytes_toNat size
  have hlt : (sizeSecond size).toNat < 2 ^ 7 := by omega
  rw [recordCount, BitVec.toNat_ofNat, decodedSize_toNat, ← Nat.shiftLeft_add_eq_or_of_lt hlt, Nat.shiftLeft_eq]
  omega

/-- An envelope of `n` records is `4 + 2 + 128 n + 1 + 1` bytes long (`46_record_layout_reference.md` R200). -/
theorem envelopeBytes_length (records : List Record) (trailer : Byte) (bytes : List Byte)
    (h : envelopeBytes records trailer = some bytes) : bytes.length = 4 + 2 + 128 * records.length + 1 + 1 := by
  have hr : (records.flatMap (·.toList)).length = 128 * records.length := by
    induction records with
    | nil => rfl
    | cons r rs ih => simp; omega
  unfold envelopeBytes at h
  obtain ⟨size, -, rfl⟩ := Option.map_eq_some_iff.1 h
  simp only [List.length_append, hr, List.length_cons, List.length_nil]

/-- Subtracting bytes from a byte, as numbers. -/
theorem foldl_sub_toNat (bytes : List Byte) (acc : Byte) :
    (bytes.foldl (· - ·) acc).toNat = (((acc.toNat : Int) - byteSum bytes) % 256).toNat := by
  induction bytes generalizing acc with
  | nil =>
    have := acc.isLt
    simp only [List.foldl_nil, byteSum, List.map_nil, List.sum_nil]
    omega
  | cons b bs ih =>
    have := b.isLt
    simp only [List.foldl_cons, ih, BitVec.toNat_sub, byteSum, List.map_cons, List.sum_cons]
    omega

/-- The trailer an encoder writes is the negated sum of the record bytes modulo 128 (`44_checksum.md` R167). -/
theorem trailerOf_toNat (bytes : List Byte) : (trailerOf bytes).toNat = ((-(byteSum bytes : Int)) % 128).toNat := by
  have h : (trailerOf bytes).toNat = (bytes.foldl (· - ·) (0 : Byte)).toNat % 2 ^ 7 := by
    rw [trailerOf, BitVec.toNat_and]
    exact Nat.and_two_pow_sub_one_eq_mod _ 7
  rw [h, foldl_sub_toNat]
  have h0 : (0 : Byte).toNat = 0 := rfl
  omega

/-- From the size bytes that an encoding host writes, the decoding host reads all the records and compares the
trailer. -/
theorem envelopeDecodeCommands_of_bulkSize (records : List Record) (size : BitVec 14) (trailer : Byte)
    (h : bulkSize records.length = some size) :
    envelopeDecodeCommands (sizeFirst size) (sizeSecond size) records trailer =
      [.unpkSize (sizeSecond size) (sizeFirst size), .ckclr] ++ records.flatMap recordDecodeCommands ++
        [.ckcmp trailer] := by
  simp [envelopeDecodeCommands, recordCount_of_bulkSize _ _ h]

end Sys2Proof.Machine
end

