-- ==== Sys2Proof/Laws/PerInstr.lean ====
section
/-! SUPPORT. Statements for all commands, one lemma per constructor. -/

namespace Sys2Proof.Laws

/-- The word of a command carries the command's opcode, its operand part, and an opcode of the table of
`30_encoding.md` R70. -/
def EncodeFields.Statement (i : Instr) : Prop :=
  opOf (encode i) = opcode i ∧ (encode i).extractLsb' 0 24 = operands i ∧
    opcode i ∈ tableRows.map (fun r => opOf r.pattern)

theorem EncodeFields.nop : EncodeFields.Statement (.nop) :=
  ⟨opOf_encode _, extract_operands _ _, by simp only [opcode]; decide⟩

theorem EncodeFields.strd : EncodeFields.Statement (.strd) :=
  ⟨opOf_encode _, extract_operands _ _, by simp only [opcode]; decide⟩

theorem EncodeFields.stclr (mask : Byte) : EncodeFields.Statement (.stclr mask) :=
  ⟨opOf_encode _, extract_operands _ _, by simp only [opcode]; decide⟩

theorem EncodeFields.ctrlrd : EncodeFields.Statement (.ctrlrd) :=
  ⟨opOf_encode _, extract_operands _ _, by simp only [opcode]; decide⟩

theorem EncodeFields.ctrlwr (value : Byte) : EncodeFields.Statement (.ctrlwr value) :=
  ⟨opOf_encode _, extract_operands _ _, by simp only [opcode]; decide⟩

theorem EncodeFields.bfx (byte : Byte) (lo w : BitVec 4) : EncodeFields.Statement (.bfx byte lo w) :=
  ⟨opOf_encode _, extract_operands _ _, by simp only [opcode]; decide⟩

theorem EncodeFields.bfi (base : Byte) (lo w : BitVec 4) (v : Byte) : EncodeFields.Statement (.bfi base lo w v) :=
  ⟨opOf_encode _, extract_operands _ _, by simp only [opcode]; decide⟩

theorem EncodeFields.unpkCurve (byte : Byte) : EncodeFields.Statement (.unpkCurve byte) :=
  ⟨opOf_encode _, extract_operands _ _, by simp only [opcode]; decide⟩

theorem EncodeFields.unpkDtrs (byte : Byte) : EncodeFields.Statement (.unpkDtrs byte) :=
  ⟨opOf_encode _, extract_operands _ _, by simp only [opcode]; decide⟩

theorem EncodeFields.unpkSens (byte : Byte) : EncodeFields.Statement (.unpkSens byte) :=
  ⟨opOf_encode _, extract_operands _ _, by simp only [opcode]; decide⟩

theorem EncodeFields.unpkOsc (byte : Byte) : EncodeFields.Statement (.unpkOsc byte) :=
  ⟨opOf_encode _, extract_operands _ _, by simp only [opcode]; decide⟩

theorem EncodeFields.unpkLfo (byte : Byte) : EncodeFields.Statement (.unpkLfo byte) :=
  ⟨opOf_encode _, extract_operands _ _, by simp only [opcode]; decide⟩

theorem EncodeFields.unpkFbks (byte : Byte) : EncodeFields.Statement (.unpkFbks byte) :=
  ⟨opOf_encode _, extract_operands _ _, by simp only [opcode]; decide⟩

theorem EncodeFields.unpkAlg (byte : Byte) : EncodeFields.Statement (.unpkAlg byte) :=
  ⟨opOf_encode _, extract_operands _ _, by simp only [opcode]; decide⟩

theorem EncodeFields.unpkTrn (byte : Byte) : EncodeFields.Statement (.unpkTrn byte) :=
  ⟨opOf_encode _, extract_operands _ _, by simp only [opcode]; decide⟩

theorem EncodeFields.unpkU99 (byte : Byte) : EncodeFields.Statement (.unpkU99 byte) :=
  ⟨opOf_encode _, extract_operands _ _, by simp only [opcode]; decide⟩

theorem EncodeFields.unpkSize (second first : Byte) : EncodeFields.Statement (.unpkSize second first) :=
  ⟨opOf_encode _, extract_operands _ _, by simp only [opcode]; decide⟩

theorem EncodeFields.packCurve (right left : Byte) : EncodeFields.Statement (.packCurve right left) :=
  ⟨opOf_encode _, extract_operands _ _, by simp only [opcode]; decide⟩

theorem EncodeFields.packDtrs (rs detune : Byte) : EncodeFields.Statement (.packDtrs rs detune) :=
  ⟨opOf_encode _, extract_operands _ _, by simp only [opcode]; decide⟩

theorem EncodeFields.packSens (ams vs : Byte) : EncodeFields.Statement (.packSens ams vs) :=
  ⟨opOf_encode _, extract_operands _ _, by simp only [opcode]; decide⟩

theorem EncodeFields.packOsc (mode coarse : Byte) : EncodeFields.Statement (.packOsc mode coarse) :=
  ⟨opOf_encode _, extract_operands _ _, by simp only [opcode]; decide⟩

theorem EncodeFields.packLfo (ks wave pms : Byte) : EncodeFields.Statement (.packLfo ks wave pms) :=
  ⟨opOf_encode _, extract_operands _ _, by simp only [opcode]; decide⟩

theorem EncodeFields.packFbks (fb oks : Byte) : EncodeFields.Statement (.packFbks fb oks) :=
  ⟨opOf_encode _, extract_operands _ _, by simp only [opcode]; decide⟩

theorem EncodeFields.packAlg (id : Byte) : EncodeFields.Statement (.packAlg id) :=
  ⟨opOf_encode _, extract_operands _ _, by simp only [opcode]; decide⟩

theorem EncodeFields.packTrn (transpose : Byte) : EncodeFields.Statement (.packTrn transpose) :=
  ⟨opOf_encode _, extract_operands _ _, by simp only [opcode]; decide⟩

theorem EncodeFields.packU99 (v : Byte) : EncodeFields.Statement (.packU99 v) :=
  ⟨opOf_encode _, extract_operands _ _, by simp only [opcode]; decide⟩

theorem EncodeFields.packSize (size : BitVec 14) : EncodeFields.Statement (.packSize size) :=
  ⟨opOf_encode _, extract_operands _ _, by simp only [opcode]; decide⟩

theorem EncodeFields.ckclr : EncodeFields.Statement (.ckclr) :=
  ⟨opOf_encode _, extract_operands _ _, by simp only [opcode]; decide⟩

theorem EncodeFields.ckadd (byte : Byte) : EncodeFields.Statement (.ckadd byte) :=
  ⟨opOf_encode _, extract_operands _ _, by simp only [opcode]; decide⟩

theorem EncodeFields.ckrd : EncodeFields.Statement (.ckrd) :=
  ⟨opOf_encode _, extract_operands _ _, by simp only [opcode]; decide⟩

theorem EncodeFields.ckcmp (byte : Byte) : EncodeFields.Statement (.ckcmp byte) :=
  ⟨opOf_encode _, extract_operands _ _, by simp only [opcode]; decide⟩

end Sys2Proof.Laws
end

