-- ==== Sys2Proof/Machine/Assembler.lean ====
section
/-! DEFINITION. The assembler syntax of `30_encoding.md` R76, read and printed. One line is one command (R77). The
machine does not use it (log entry 14). -/

namespace Sys2Proof.Machine

/-- Why a line is an assembler error and no command (R76). -/
inductive AsmError where
  /-- The line starts with no mnemonic of R70. -/
  | unknownMnemonic
  /-- The operands are not those of the command's row in R76. -/
  | badOperands
  /-- An operand is not a number of R76. -/
  | badNumber
  /-- An operand value does not fit its lane. -/
  | doesNotFit
deriving DecidableEq, Repr

/-- The operands of a line: positional ones in order, and `name=value` ones. -/
structure AsmOperands where
  positional : List (List Char)
  named : List (List Char × List Char)
deriving DecidableEq, Repr

/-! ### Reading numbers and splitting a line -/

/-- The value of a digit, decimal or hexadecimal. -/
def digitValue (c : Char) : Option Nat :=
  if '0' ≤ c ∧ c ≤ '9' then some (c.toNat - '0'.toNat)
  else if 'a' ≤ c ∧ c ≤ 'f' then some (c.toNat - 'a'.toNat + 10)
  else if 'A' ≤ c ∧ c ≤ 'F' then some (c.toNat - 'A'.toNat + 10)
  else none

/-- Digits in a base, after the value read so far. -/
def readDigits (base : Nat) (acc : Nat) : List Char → Option Nat
  | [] => some acc
  | c :: cs =>
    match digitValue c with
    | none => none
    | some d => if d < base then readDigits base (base * acc + d) cs else none

/-- A decimal number, or a hexadecimal one with `0x`; at least one digit. -/
def readNat : List Char → Option Nat
  | [] => none
  | '0' :: 'x' :: cs => if cs.isEmpty then none else readDigits 16 0 cs
  | cs => readDigits 10 0 cs

/-- A number that may carry a minus sign. -/
def readInt : List Char → Except AsmError Int
  | '-' :: cs => match readNat cs with
    | some n => .ok (-n)
    | none => .error .badNumber
  | cs => match readNat cs with
    | some n => .ok n
    | none => .error .badNumber

/-- Blanks around a word of a line. -/
def isBlank (c : Char) : Bool := c == ' ' || c == '\t'

/-- A word without the blanks around it. -/
def trimBlanks (cs : List Char) : List Char := ((cs.dropWhile isBlank).reverse.dropWhile isBlank).reverse

/-- The parts of a text between separators. -/
def splitAt (sep : Char) : List Char → List (List Char)
  | [] => [[]]
  | c :: cs =>
    if c == sep then [] :: splitAt sep cs
    else match splitAt sep cs with
      | [] => [[c]]
      | p :: ps => (c :: p) :: ps

/-- Sort an operand among the positional and the named ones; each kind keeps its order. R76 writes the positional
operand first and frees only the order of the named ones; that a positional operand may also stand between or after
named ones (`BFX lo=3, 0xB8, w=4`) is the model's choice (DESIGN CHOICE, log entry 14). -/
def addOperand (text : List Char) (ops : AsmOperands) : AsmOperands :=
  if text.contains '=' then
    { ops with named :=
        (trimBlanks (text.takeWhile (· != '=')), trimBlanks ((text.dropWhile (· != '=')).drop 1)) :: ops.named }
  else { ops with positional := trimBlanks text :: ops.positional }

/-- The operands after the mnemonic. -/
def readOperands (rest : List Char) : AsmOperands :=
  if rest.isEmpty then ⟨[], []⟩ else (splitAt ',' rest).foldr addOperand ⟨[], []⟩

/-! ### Operand values -/

/-- A value that fits `w` bits unsigned. -/
def unsignedLane (w : Nat) (i : Int) : Except AsmError (BitVec w) :=
  if 0 ≤ i ∧ i < 2 ^ w then .ok (BitVec.ofInt w i) else .error .doesNotFit

/-- A value in -128..127, encoded by `tc8`. -/
def signedLane (i : Int) : Except AsmError Byte :=
  if -128 ≤ i ∧ i ≤ 127 then .ok (BitVec.ofInt 8 i) else .error .doesNotFit

/-- The operand of a name, which stands exactly once; named operands come in any order. -/
def namedValue (ops : AsmOperands) (name : String) : Except AsmError Int :=
  match ops.named.filter (fun p => p.1 == name.toList) with
  | [(_, v)] => readInt v
  | _ => .error .badOperands

/-- The line has this many positional and this many named operands. -/
def expectCounts (ops : AsmOperands) (positional named : Nat) : Except AsmError Unit :=
  if ops.positional.length = positional ∧ ops.named.length = named then .ok () else .error .badOperands

/-- The mask of STCLR: a number 0..7, or flag names joined by a bar (R76). -/
def readMask (text : List Char) : Except AsmError Byte :=
  match readNat text with
  | some n => if n ≤ 7 then .ok (BitVec.ofNat 8 n) else .error .doesNotFit
  | none => (splitAt '|' text).foldr (fun part acc => do
      let mask ← acc
      let name := trimBlanks part
      if name == "ERR".toList then .ok (mask ||| 1) else if name == "CKBAD".toList then .ok (mask ||| 2)
      else if name == "ILL".toList then .ok (mask ||| 4) else .error .badOperands) (.ok 0)

/-- The value of CTRLWR: 0, 1 or the name CKENF (R76). -/
def readCtrl (text : List Char) : Except AsmError Byte :=
  if text == "CKENF".toList then .ok 1 else
  match readNat text with
  | some n => if n ≤ 1 then .ok (BitVec.ofNat 8 n) else .error .doesNotFit
  | none => .error .badNumber

/-! ### The rows of R76 -/

/-- No operand. -/
def asmNone (i : Instr) (ops : AsmOperands) : Except AsmError Instr := do
  expectCounts ops 0 0
  return i

/-- One positional operand, read by `read`. -/
def asmOne (read : List Char → Except AsmError Byte) (make : Byte → Instr) (ops : AsmOperands) :
    Except AsmError Instr :=
  match ops.positional, ops.named with
  | [text], [] => return make (← read text)
  | _, _ => .error .badOperands

/-- A byte from the wire. -/
def readByte (text : List Char) : Except AsmError Byte := do unsignedLane 8 (← readInt text)

/-- Two positional bytes, in the order written. -/
def asmTwo (make : Byte → Byte → Instr) (ops : AsmOperands) : Except AsmError Instr :=
  match ops.positional, ops.named with
  | [a, b], [] => return make (← readByte a) (← readByte b)
  | _, _ => .error .badOperands

/-- A positional byte and the fields `lo` and `w` (BFX). -/
def asmExtract (ops : AsmOperands) : Except AsmError Instr := do
  expectCounts ops 1 2
  return .bfx (← readByte (ops.positional.headD [])) (← unsignedLane 4 (← namedValue ops "lo"))
    (← unsignedLane 4 (← namedValue ops "w"))

/-- A positional base byte, the fields `lo` and `w`, and the value `v` (BFI). -/
def asmInsert (ops : AsmOperands) : Except AsmError Instr := do
  expectCounts ops 1 3
  return .bfi (← readByte (ops.positional.headD [])) (← unsignedLane 4 (← namedValue ops "lo"))
    (← unsignedLane 4 (← namedValue ops "w")) (← unsignedLane 8 (← namedValue ops "v"))

/-- One named field. -/
def asmField (name : String) (lane : Int → Except AsmError Byte) (make : Byte → Instr) (ops : AsmOperands) :
    Except AsmError Instr := do
  expectCounts ops 0 1
  return make (← lane (← namedValue ops name))

/-- Two named fields, lane 0 and lane 1. -/
def asmFields (name0 name1 : String) (lane1 : Int → Except AsmError Byte) (make : Byte → Byte → Instr)
    (ops : AsmOperands) : Except AsmError Instr := do
  expectCounts ops 0 2
  return make (← unsignedLane 8 (← namedValue ops name0)) (← lane1 (← namedValue ops name1))

/-- The three named fields of PACK.LFO. -/
def asmLfo (ops : AsmOperands) : Except AsmError Instr := do
  expectCounts ops 0 3
  return .packLfo (← unsignedLane 8 (← namedValue ops "ks")) (← unsignedLane 8 (← namedValue ops "wave"))
    (← unsignedLane 8 (← namedValue ops "pms"))

/-- The size of PACK.SIZE, 0 to 16383. -/
def asmSize (ops : AsmOperands) : Except AsmError Instr := do
  expectCounts ops 1 0
  return .packSize (← unsignedLane 14 (← readInt (ops.positional.headD [])))

/-- The table of R76: a mnemonic and how its operands are read. -/
def asmTable : List (String × (AsmOperands → Except AsmError Instr)) :=
  [ ("NOP", asmNone .nop), ("STRD", asmNone .strd), ("CTRLRD", asmNone .ctrlrd), ("CKCLR", asmNone .ckclr),
    ("CKRD", asmNone .ckrd), ("STCLR", asmOne readMask .stclr), ("CTRLWR", asmOne readCtrl .ctrlwr),
    ("BFX", asmExtract), ("BFI", asmInsert) ] ++
  [ ("UNPK.CURVE", asmOne readByte .unpkCurve), ("UNPK.DTRS", asmOne readByte .unpkDtrs),
    ("UNPK.SENS", asmOne readByte .unpkSens), ("UNPK.OSC", asmOne readByte .unpkOsc),
    ("UNPK.LFO", asmOne readByte .unpkLfo), ("UNPK.FBKS", asmOne readByte .unpkFbks),
    ("UNPK.ALG", asmOne readByte .unpkAlg), ("UNPK.TRN", asmOne readByte .unpkTrn),
    ("UNPK.U99", asmOne readByte .unpkU99), ("CKADD", asmOne readByte .ckadd), ("CKCMP", asmOne readByte .ckcmp),
    ("UNPK.SIZE", asmTwo (fun first second => .unpkSize second first)) ] ++
  [ ("PACK.CURVE", asmFields "right" "left" (unsignedLane 8) .packCurve),
    ("PACK.DTRS", asmFields "rs" "detune" signedLane .packDtrs),
    ("PACK.SENS", asmFields "ams" "vs" (unsignedLane 8) .packSens),
    ("PACK.OSC", asmFields "mode" "coarse" (unsignedLane 8) .packOsc), ("PACK.LFO", asmLfo),
    ("PACK.FBKS", asmFields "fb" "oks" (unsignedLane 8) .packFbks),
    ("PACK.ALG", asmField "id" (unsignedLane 8) .packAlg), ("PACK.TRN", asmField "transpose" signedLane .packTrn),
    ("PACK.U99", asmField "v" (unsignedLane 8) .packU99), ("PACK.SIZE", asmSize) ]

/-- Read one line: `none` for a blank or comment line (`;` starts a comment), else its one command (R76, R77). -/
def assembleLine (line : List Char) : Except AsmError (Option Instr) :=
  let text := trimBlanks (line.takeWhile (· != ';'))
  if text.isEmpty then .ok none else
  match asmTable.find? (fun row => row.1.toList == text.takeWhile (fun c => !isBlank c)) with
  | none => .error .unknownMnemonic
  | some row => (row.2 (readOperands (trimBlanks (text.dropWhile (fun c => !isBlank c))))).map some

/-- The command words of a listing, one line each (R77). -/
def assemble : List (List Char) → Except AsmError (List Word)
  | [] => .ok []
  | line :: lines => do
    let first ← assembleLine line
    let rest ← assemble lines
    return (first.map encode).toList ++ rest

/-! ### Printing -/

/-- A decimal operand. -/
def showByte (b : Byte) : String := toString b.toNat

/-- A signed decimal operand. -/
def showSigned (b : Byte) : String := toString b.toInt

/-- The listing line of a command in the syntax of R76, every number decimal. -/
def showInstr : Instr → String
  | .nop => "NOP"
  | .strd => "STRD"
  | .stclr mask => "STCLR " ++ showByte mask
  | .ctrlrd => "CTRLRD"
  | .ctrlwr value => "CTRLWR " ++ showByte value
  | .bfx b lo w => "BFX " ++ showByte b ++ ", lo=" ++ toString lo.toNat ++ ", w=" ++ toString w.toNat
  | .bfi b lo w v =>
    "BFI " ++ showByte b ++ ", lo=" ++ toString lo.toNat ++ ", w=" ++ toString w.toNat ++ ", v=" ++ showByte v
  | .unpkCurve b => "UNPK.CURVE " ++ showByte b
  | .unpkDtrs b => "UNPK.DTRS " ++ showByte b
  | .unpkSens b => "UNPK.SENS " ++ showByte b
  | .unpkOsc b => "UNPK.OSC " ++ showByte b
  | .unpkLfo b => "UNPK.LFO " ++ showByte b
  | .unpkFbks b => "UNPK.FBKS " ++ showByte b
  | .unpkAlg b => "UNPK.ALG " ++ showByte b
  | .unpkTrn b => "UNPK.TRN " ++ showByte b
  | .unpkU99 b => "UNPK.U99 " ++ showByte b
  | .unpkSize second first => "UNPK.SIZE " ++ showByte first ++ ", " ++ showByte second
  | .packCurve right left => "PACK.CURVE left=" ++ showByte left ++ ", right=" ++ showByte right
  | .packDtrs rs detune => "PACK.DTRS detune=" ++ showSigned detune ++ ", rs=" ++ showByte rs
  | .packSens ams vs => "PACK.SENS vs=" ++ showByte vs ++ ", ams=" ++ showByte ams
  | .packOsc mode coarse => "PACK.OSC coarse=" ++ showByte coarse ++ ", mode=" ++ showByte mode
  | .packLfo ks wave pms => "PACK.LFO pms=" ++ showByte pms ++ ", wave=" ++ showByte wave ++ ", ks=" ++ showByte ks
  | .packFbks fb oks => "PACK.FBKS oks=" ++ showByte oks ++ ", fb=" ++ showByte fb
  | .packAlg id => "PACK.ALG id=" ++ showByte id
  | .packTrn t => "PACK.TRN transpose=" ++ showSigned t
  | .packU99 v => "PACK.U99 v=" ++ showByte v
  | .packSize size => "PACK.SIZE " ++ toString size.toNat
  | .ckclr => "CKCLR"
  | .ckadd b => "CKADD " ++ showByte b
  | .ckrd => "CKRD"
  | .ckcmp b => "CKCMP " ++ showByte b

end Sys2Proof.Machine
end

