-- ==== Sys2Proof/Tests/Slice0.lean ====
section
/-! SUPPORT. Tests on fixed values. Expected words, responses and states are those of `95_test_vectors.md` (its section
is named beside each test) or hand computations from the rule named; then a witness for the hypotheses of every
statement of `Certificates/Slice0/Obligations.lean` that has any. -/

namespace Sys2Proof.Tests

open Machine

/-- The reset state with these values of CSUM, STATUS and CTRL, and a command word pending. -/
def given (csum : Byte) (err ckbad ill ckenf : Bool) (c : Word) : State :=
  { State.reset with csum := csum, status := ⟨err, ckbad, ill⟩, ctrl := ⟨ckenf⟩, pending := [.command c] }

/-- The last response, CSUM, STATUS and CTRL after one step. -/
def afterStep (s : State) : Option (Word × Byte × Byte × Byte) :=
  match step s with
  | .next t => some (t.responses.getLastD 0, t.csum, t.status.byte, t.ctrl.byte)
  | .fault _ => none
  | .refused _ => none

/-- What one command word answers after reset, with STATUS afterwards. -/
def fromReset (c : Word) : Option (Word × Byte) :=
  match step (State.reset.offerCommand c) with
  | .next t => some (t.responses.getLastD 0, t.status.byte)
  | .fault _ => none
  | .refused _ => none

/-! ### Well-formedness: each check refuses an ill-formed term -/

theorem test_ill_formed_stclr_mask_bit_3 : Instr.wellFormed (.stclr 8#8) = false := by decide

theorem test_ill_formed_ctrlwr_value_2 : Instr.wellFormed (.ctrlwr 2#8) = false := by decide

theorem test_ill_formed_bfx_width_0 : Instr.wellFormed (.bfx 0xA5#8 0#4 0#4) = false := by decide

theorem test_ill_formed_bfx_width_9 : Instr.wellFormed (.bfx 0xA5#8 0#4 9#4) = false := by decide

theorem test_ill_formed_bfx_position_8 : Instr.wellFormed (.bfx 0xA5#8 8#4 1#4) = false := by decide

theorem test_ill_formed_bfx_past_bit_7 : Instr.wellFormed (.bfx 0xA5#8 4#4 5#4) = false := by decide

theorem test_ill_formed_bfi_width_0 : Instr.wellFormed (.bfi 0xA5#8 0#4 0#4 1#8) = false := by decide

theorem test_ill_formed_bfi_past_bit_7 : Instr.wellFormed (.bfi 0xA5#8 4#4 5#4 1#8) = false := by decide

theorem test_well_formed_at_the_bounds : Instr.wellFormed (.stclr 7#8) = true ∧ Instr.wellFormed (.ctrlwr 1#8) = true ∧
    Instr.wellFormed (.bfx 0xFF#8 7#4 1#4) = true ∧ Instr.wellFormed (.bfi 0xFF#8 0#4 8#4 1#8) = true := by decide

/-! ### Decoding: words written out from `30_encoding.md` R62 and R70 -/

/-- STCLR: opcode 0x02, the mask in bits 2:0. -/
theorem test_bits_stclr : decode 0b00000010000000000000000000000100#32 = .ok (.stclr 4#8) := by decide

/-- BFI: opcode 0x09, v, w, lo, base byte. -/
theorem test_bits_bfi : decode 0b00001001000010100100001100000010#32 = .ok (.bfi 0x02#8 3#4 4#4 10#8) := by decide

/-- UNPK.LFO: opcode 0x14, two zero bytes, the byte. -/
theorem test_bits_unpk_lfo : decode 0b00010100000000000000000001111010#32 = .ok (.unpkLfo 0x7A#8) := by decide

/-- UNPK.SIZE: opcode 0x19, a zero byte, the first byte, the second byte. -/
theorem test_bits_unpk_size : decode 0b00011001000000000010000000000001#32 = .ok (.unpkSize 0x01#8 0x20#8) := by decide

/-- PACK.LFO: opcode 0x24, pms, wave, ks. -/
theorem test_bits_pack_lfo : decode 0b00100100000001010000001000000001#32 = .ok (.packLfo 1#8 2#8 5#8) := by decide

/-- PACK.SIZE: opcode 0x29, ten zero bits, 14 bits of size. -/
theorem test_bits_pack_size : decode 0b00101001000000000001000000000001#32 = .ok (.packSize 4097#14) := by decide

/-- CKCMP: opcode 0x33, two zero bytes, the byte. -/
theorem test_bits_ckcmp : decode 0b00110011000000000000000001111010#32 = .ok (.ckcmp 0x7A#8) := by decide

theorem test_decode_nop : decode 0x00000000#32 = .ok (.nop) ∧ encode (.nop) = 0x00000000#32 := by decide

theorem test_decode_strd : decode 0x01000000#32 = .ok (.strd) ∧ encode (.strd) = 0x01000000#32 := by decide

theorem test_decode_stclr : decode 0x02000007#32 = .ok (.stclr 7#8) ∧ encode (.stclr 7#8) = 0x02000007#32 := by decide

theorem test_decode_ctrlrd : decode 0x03000000#32 = .ok (.ctrlrd) ∧ encode (.ctrlrd) = 0x03000000#32 := by decide

theorem test_decode_ctrlwr : decode 0x04000001#32 = .ok (.ctrlwr 1#8) ∧ encode (.ctrlwr 1#8) = 0x04000001#32 := by decide

theorem test_decode_bfx : decode 0x080043B8#32 = .ok (.bfx 0xB8#8 3#4 4#4) ∧ encode (.bfx 0xB8#8 3#4 4#4) = 0x080043B8#32 := by decide

theorem test_decode_bfi : decode 0x090A4302#32 = .ok (.bfi 0x02#8 3#4 4#4 0x0A#8) ∧ encode (.bfi 0x02#8 3#4 4#4 0x0A#8) = 0x090A4302#32 := by decide

theorem test_decode_unpk_curve : decode 0x1000000D#32 = .ok (.unpkCurve 0x0D#8) ∧ encode (.unpkCurve 0x0D#8) = 0x1000000D#32 := by decide

theorem test_decode_unpk_dtrs : decode 0x1100003A#32 = .ok (.unpkDtrs 0x3A#8) ∧ encode (.unpkDtrs 0x3A#8) = 0x1100003A#32 := by decide

theorem test_decode_unpk_sens : decode 0x1200000B#32 = .ok (.unpkSens 0x0B#8) ∧ encode (.unpkSens 0x0B#8) = 0x1200000B#32 := by decide

theorem test_decode_unpk_osc : decode 0x13000003#32 = .ok (.unpkOsc 0x03#8) ∧ encode (.unpkOsc 0x03#8) = 0x13000003#32 := by decide

theorem test_decode_unpk_lfo : decode 0x14000052#32 = .ok (.unpkLfo 0x52#8) ∧ encode (.unpkLfo 0x52#8) = 0x14000052#32 := by decide

theorem test_decode_unpk_fbks : decode 0x1500000F#32 = .ok (.unpkFbks 0x0F#8) ∧ encode (.unpkFbks 0x0F#8) = 0x1500000F#32 := by decide

theorem test_decode_unpk_alg : decode 0x1600001F#32 = .ok (.unpkAlg 0x1F#8) ∧ encode (.unpkAlg 0x1F#8) = 0x1600001F#32 := by decide

theorem test_decode_unpk_trn : decode 0x17000024#32 = .ok (.unpkTrn 0x24#8) ∧ encode (.unpkTrn 0x24#8) = 0x17000024#32 := by decide

theorem test_decode_unpk_u99 : decode 0x18000096#32 = .ok (.unpkU99 0x96#8) ∧ encode (.unpkU99 0x96#8) = 0x18000096#32 := by decide

theorem test_decode_unpk_size : decode 0x19000180#32 = .ok (.unpkSize 0x80#8 0x01#8) ∧ encode (.unpkSize 0x80#8 0x01#8) = 0x19000180#32 := by decide

theorem test_decode_pack_curve : decode 0x20000301#32 = .ok (.packCurve 1#8 3#8) ∧ encode (.packCurve 1#8 3#8) = 0x20000301#32 := by decide

theorem test_decode_pack_dtrs : decode 0x2100FD05#32 = .ok (.packDtrs 5#8 0xFD#8) ∧ encode (.packDtrs 5#8 0xFD#8) = 0x2100FD05#32 := by decide

theorem test_decode_pack_sens : decode 0x22000203#32 = .ok (.packSens 3#8 2#8) ∧ encode (.packSens 3#8 2#8) = 0x22000203#32 := by decide

theorem test_decode_pack_osc : decode 0x23001E00#32 = .ok (.packOsc 0#8 30#8) ∧ encode (.packOsc 0#8 30#8) = 0x23001E00#32 := by decide

theorem test_decode_pack_lfo : decode 0x24030400#32 = .ok (.packLfo 0#8 4#8 3#8) ∧ encode (.packLfo 0#8 4#8 3#8) = 0x24030400#32 := by decide

theorem test_decode_pack_fbks : decode 0x25000106#32 = .ok (.packFbks 6#8 1#8) ∧ encode (.packFbks 6#8 1#8) = 0x25000106#32 := by decide

theorem test_decode_pack_alg : decode 0x26000020#32 = .ok (.packAlg 32#8) ∧ encode (.packAlg 32#8) = 0x26000020#32 := by decide

theorem test_decode_pack_trn : decode 0x270000F4#32 = .ok (.packTrn 0xF4#8) ∧ encode (.packTrn 0xF4#8) = 0x270000F4#32 := by decide

theorem test_decode_pack_u99 : decode 0x28000063#32 = .ok (.packU99 99#8) ∧ encode (.packU99 99#8) = 0x28000063#32 := by decide

theorem test_decode_pack_size : decode 0x29003FFF#32 = .ok (.packSize 16383#14) ∧ encode (.packSize 16383#14) = 0x29003FFF#32 := by decide

theorem test_decode_ckclr : decode 0x30000000#32 = .ok (.ckclr) ∧ encode (.ckclr) = 0x30000000#32 := by decide

theorem test_decode_ckadd : decode 0x31000080#32 = .ok (.ckadd 0x80#8) ∧ encode (.ckadd 0x80#8) = 0x31000080#32 := by decide

theorem test_decode_ckrd : decode 0x32000000#32 = .ok (.ckrd) ∧ encode (.ckrd) = 0x32000000#32 := by decide

theorem test_decode_ckcmp : decode 0x330000FA#32 = .ok (.ckcmp 0xFA#8) ∧ encode (.ckcmp 0xFA#8) = 0x330000FA#32 := by decide

/-- Reserved opcodes at the edges of every range of R72. -/
theorem test_decode_reserved_opcodes :
    [0x05, 0x07, 0x0A, 0x0F, 0x1A, 0x1F, 0x2A, 0x2F, 0x34, 0xFF].all
      (fun op => decode (BitVec.ofNat 8 op ++ 0x000010#24) == .error .reservedOpcode) = true := by decide

/-- Nonzero reserved operand bits (`95_test_vectors.md` 2.1, 2.2, 2.11, 2.15). -/
theorem test_decode_reserved_bits :
    [0x00000001, 0x02000008, 0x04000002, 0x080143A5, 0x10000100, 0x18000132, 0x19010000, 0x29004000, 0x30000001,
      0x31000100].all (fun c => decode c == .error .reservedBit) = true := by decide

/-- Illegal geometries (`95_test_vectors.md` 2.1). -/
theorem test_decode_geometry :
    [0x080000A5, 0x080090A5, 0x080018A5, 0x080054A5].all (fun c => decode c == .error .geometry) = true := by decide

theorem test_table_word : decodeTableWord 32 0x33000041 = some (.ckcmp 0x41#8) ∧ decodeTableWord 32 0x34000000 = none := by
  decide

theorem test_fetch_word :
    (State.reset.withFetchWord 32 0x310000FF).pending = [.command 0x310000FF#32] := by decide

/-! ### One step per instruction, from reset: the response and STATUS -/

/-- `95_test_vectors.md` 2.15 #1. -/
theorem test_step_nop : fromReset 0x00000000#32 = some (0x00000000#32, 0x00#8) := by decide

/-- `95_test_vectors.md` 2.15 #5. -/
theorem test_step_stclr_illegal : fromReset 0x02000008#32 = some (0x80000000#32, 0x04#8) := by decide

/-- `95_test_vectors.md` 2.15 #7. -/
theorem test_step_ctrlwr_illegal : fromReset 0x04000002#32 = some (0x80000000#32, 0x04#8) := by decide

/-- `95_test_vectors.md` 2.1. -/
theorem test_step_bfx : fromReset 0x080043B8#32 = some (0x00000007#32, 0x00#8) := by decide

/-- `95_test_vectors.md` 2.1. -/
theorem test_step_bfx_illegal : fromReset 0x080054A5#32 = some (0x80000000#32, 0x04#8) := by decide

/-- `95_test_vectors.md` 2.1. -/
theorem test_step_bfi : fromReset 0x090A4302#32 = some (0x00000052#32, 0x00#8) := by decide

/-- `95_test_vectors.md` 2.1. -/
theorem test_step_bfi_truncates : fromReset 0x09FF30FF#32 = some (0x000000FF#32, 0x00#8) := by decide

/-- `95_test_vectors.md` 2.3. -/
theorem test_step_unpk_dtrs : fromReset 0x11000000#32 = some (0x0000F900#32, 0x00#8) := by decide

/-- `95_test_vectors.md` 2.3. -/
theorem test_step_unpk_dtrs_range : fromReset 0x110000FF#32 = some (0x02000707#32, 0x01#8) := by decide

/-- `95_test_vectors.md` 2.4. -/
theorem test_step_unpk_sens : fromReset 0x1200001E#32 = some (0x00000702#32, 0x00#8) := by decide

/-- `95_test_vectors.md` 2.4. -/
theorem test_step_unpk_sens_range : fromReset 0x12000020#32 = some (0x02000700#32, 0x01#8) := by decide

/-- `95_test_vectors.md` 2.5. -/
theorem test_step_unpk_osc : fromReset 0x1300003E#32 = some (0x00001F00#32, 0x00#8) := by decide

/-- `95_test_vectors.md` 2.5. -/
theorem test_step_unpk_osc_range : fromReset 0x13000041#32 = some (0x02001F01#32, 0x01#8) := by decide

/-- `95_test_vectors.md` 2.6. -/
theorem test_step_unpk_lfo : fromReset 0x14000052#32 = some (0x00050100#32, 0x00#8) := by decide

/-- `95_test_vectors.md` 2.6. -/
theorem test_step_unpk_lfo_range : fromReset 0x140000FF#32 = some (0x02070501#32, 0x01#8) := by decide

/-- `95_test_vectors.md` 2.7. -/
theorem test_step_unpk_fbks : fromReset 0x15000008#32 = some (0x00000100#32, 0x00#8) := by decide

/-- `95_test_vectors.md` 2.7. -/
theorem test_step_unpk_fbks_ignores : fromReset 0x150000F0#32 = some (0x00000000#32, 0x00#8) := by decide

/-- `95_test_vectors.md` 2.8. -/
theorem test_step_unpk_alg : fromReset 0x1600001F#32 = some (0x00000020#32, 0x00#8) := by decide

/-- `95_test_vectors.md` 2.8. -/
theorem test_step_unpk_alg_ignores : fromReset 0x16000020#32 = some (0x00000001#32, 0x00#8) := by decide

/-- `95_test_vectors.md` 2.9. -/
theorem test_step_unpk_trn : fromReset 0x1700000C#32 = some (0x000000F4#32, 0x00#8) := by decide

/-- `95_test_vectors.md` 2.9. -/
theorem test_step_unpk_trn_range : fromReset 0x17000031#32 = some (0x01000018#32, 0x01#8) := by decide

/-- `95_test_vectors.md` 2.10. -/
theorem test_step_unpk_u99 : fromReset 0x18000063#32 = some (0x00000063#32, 0x00#8) := by decide

/-- `95_test_vectors.md` 2.10. -/
theorem test_step_unpk_u99_range : fromReset 0x18000096#32 = some (0x01000063#32, 0x01#8) := by decide

/-- `95_test_vectors.md` 2.11. -/
theorem test_step_unpk_size : fromReset 0x1900FFFF#32 = some (0x00FF7FFF#32, 0x00#8) := by decide

/-- `95_test_vectors.md` 2.11. -/
theorem test_step_unpk_size_or : fromReset 0x19000180#32 = some (0x00010080#32, 0x00#8) := by decide

/-- `95_test_vectors.md` 2.12. -/
theorem test_step_pack_dtrs : fromReset 0x2100FD05#32 = some (0x00000025#32, 0x00#8) := by decide

/-- `95_test_vectors.md` 2.12. -/
theorem test_step_pack_dtrs_wraps : fromReset 0x2100F800#32 = some (0x00000078#32, 0x00#8) := by decide

/-- `95_test_vectors.md` 2.12. -/
theorem test_step_pack_sens : fromReset 0x22000203#32 = some (0x0000000B#32, 0x00#8) := by decide

/-- `95_test_vectors.md` 2.12. -/
theorem test_step_pack_sens_truncates : fromReset 0x22004000#32 = some (0x00000000#32, 0x00#8) := by decide

/-- `95_test_vectors.md` part 3 P3. -/
theorem test_step_pack_osc : fromReset 0x23001E00#32 = some (0x0000003C#32, 0x00#8) := by decide

/-- `95_test_vectors.md` part 3 P3. -/
theorem test_step_pack_lfo : fromReset 0x24030400#32 = some (0x00000038#32, 0x00#8) := by decide

/-- `95_test_vectors.md` 2.12. -/
theorem test_step_pack_lfo_truncates : fromReset 0x24000800#32 = some (0x00000000#32, 0x00#8) := by decide

/-- `95_test_vectors.md` part 3 P3. -/
theorem test_step_pack_fbks : fromReset 0x25000106#32 = some (0x0000000E#32, 0x00#8) := by decide

/-- `95_test_vectors.md` 2.12. -/
theorem test_step_pack_fbks_truncates : fromReset 0x25000200#32 = some (0x00000000#32, 0x00#8) := by decide

/-- `95_test_vectors.md` 2.12. -/
theorem test_step_pack_alg : fromReset 0x26000020#32 = some (0x0000001F#32, 0x00#8) := by decide

/-- `95_test_vectors.md` 2.12. -/
theorem test_step_pack_alg_zero : fromReset 0x26000000#32 = some (0x0000001F#32, 0x00#8) := by decide

/-- `95_test_vectors.md` 2.12. -/
theorem test_step_pack_trn : fromReset 0x270000F4#32 = some (0x0000000C#32, 0x00#8) := by decide

/-- `95_test_vectors.md` 2.12. -/
theorem test_step_pack_trn_wraps : fromReset 0x270000E7#32 = some (0x000000FF#32, 0x00#8) := by decide

/-- `95_test_vectors.md` 2.12. -/
theorem test_step_pack_u99 : fromReset 0x28000064#32 = some (0x00000064#32, 0x00#8) := by decide

/-- `95_test_vectors.md` 2.11. -/
theorem test_step_pack_size : fromReset 0x29001000#32 = some (0x00002000#32, 0x00#8) := by decide

/-- `95_test_vectors.md` 2.11. -/
theorem test_step_pack_size_largest : fromReset 0x29003FFF#32 = some (0x00007F7F#32, 0x00#8) := by decide

/-! ### Steps that read or write state: the response, CSUM, STATUS, CTRL -/

/-- `95_test_vectors.md` 2.14 #9. -/
theorem test_step_strd : afterStep (given 0xFA#8 false true false false 0x01000000#32) =
    some (0x00000002#32, 0xFA#8, 0x02#8, 0x00#8) := by decide

/-- `95_test_vectors.md` part 3 P2 #5. -/
theorem test_step_strd_clears_nothing : afterStep (given 0x00#8 true false false false 0x01000000#32) =
    some (0x00000001#32, 0x00#8, 0x01#8, 0x00#8) := by decide

/-- `95_test_vectors.md` part 3 P5 #6. -/
theorem test_step_stclr : afterStep (given 0xE0#8 true false true false 0x02000004#32) =
    some (0x00000001#32, 0xE0#8, 0x01#8, 0x00#8) := by decide

/-- `95_test_vectors.md` 2.15 #9. -/
theorem test_step_ctrlrd : afterStep (given 0x00#8 false false true true 0x03000000#32) =
    some (0x00000001#32, 0x00#8, 0x04#8, 0x01#8) := by decide

/-- `95_test_vectors.md` 2.15 #8. -/
theorem test_step_ctrlwr : afterStep (given 0x00#8 false false true false 0x04000001#32) =
    some (0x00000001#32, 0x00#8, 0x04#8, 0x01#8) := by decide

/-- `95_test_vectors.md` 2.14 #1, from CSUM 4A. -/
theorem test_step_ckclr : afterStep (given 0x4A#8 false false false true 0x30000000#32) =
    some (0x00000000#32, 0x00#8, 0x00#8, 0x01#8) := by decide

/-- `95_test_vectors.md` 2.14 #2. -/
theorem test_step_ckadd_wraps : afterStep (given 0x00#8 false false false false 0x31000001#32) =
    some (0x000000FF#32, 0xFF#8, 0x00#8, 0x00#8) := by decide

/-- `95_test_vectors.md` 2.14 with enforcement #4. -/
theorem test_step_ckadd_cancels : afterStep (given 0x80#8 false false false true 0x31000080#32) =
    some (0x00000000#32, 0x00#8, 0x00#8, 0x01#8) := by decide

/-- `95_test_vectors.md` 2.14 #5. -/
theorem test_step_ckrd : afterStep (given 0xFA#8 false false false false 0x32000000#32) =
    some (0x0000FA7A#32, 0xFA#8, 0x00#8, 0x00#8) := by decide

/-- `95_test_vectors.md` 2.14 #8. -/
theorem test_step_ckcmp_uses_bit_7 : afterStep (given 0xFA#8 false true false false 0x330000FA#32) =
    some (0x0800FA7A#32, 0xFA#8, 0x02#8, 0x00#8) := by decide

/-- `95_test_vectors.md` 2.14 with enforcement #8. -/
theorem test_step_ckcmp_enforced : afterStep (given 0xFF#8 false false false true 0x33000000#32) =
    some (0x0800007F#32, 0xFF#8, 0x03#8, 0x01#8) := by decide

/-- `95_test_vectors.md` part 3 P5 #2. -/
theorem test_step_illegal_leaves_work : afterStep (given 0xF0#8 false false false false 0x31000110#32) =
    some (0x80000000#32, 0xF0#8, 0x04#8, 0x00#8) := by decide

/-! ### The curve byte, for both values of the open parameter (`95_test_vectors.md` 2.2, 2.12) -/

theorem test_unpk_curve_left_high :
    ((curveFormat true).unpack 0x0D#8).word = 0x00000301#32 ∧ ((curveFormat true).unpack 0xFE#8).word = 0x00000302#32 := by
  decide

theorem test_unpk_curve_left_low :
    ((curveFormat false).unpack 0x0D#8).word = 0x00000103#32 ∧ ((curveFormat false).unpack 0xFE#8).word = 0x00000203#32 := by
  decide

theorem test_pack_curve_left_high :
    (curveFormat true).pack 1#8 3#8 0#8 = 0x0D#8 ∧ (curveFormat true).pack 0#8 0xFF#8 0#8 = 0x0C#8 := by decide

theorem test_pack_curve_left_low :
    (curveFormat false).pack 1#8 3#8 0#8 = 0x07#8 ∧ (curveFormat false).pack 0#8 0xFF#8 0#8 = 0x03#8 := by decide

/-! ### The host's reference (`46_record_layout_reference.md`) and the assembler (`30_encoding.md` R76) -/

/-- R193 and R194: where the operator blocks start, and the formats of the 17 bytes of one. -/
theorem test_operator_formats :
    let formats := (List.range 17).map (fun n => recordByteFormat (operatorBlockOffset 1 + n))
    formats.count .u99 = 13 ∧ formats.count .curve = 1 ∧ formats.count .dtrs = 1 ∧ formats.count .sens = 1 ∧
      formats.count .osc = 1 ∧ [6, 5, 4, 3, 2, 1].map operatorBlockOffset = [0, 17, 34, 51, 68, 85] := by decide

/-- R195: the formats of record bytes 102 to 127. -/
theorem test_tail_formats :
    let formats := (List.range 26).map (fun n => recordByteFormat (102 + n))
    formats.count .u99 = 12 ∧ formats.count .alg = 1 ∧ formats.count .fbks = 1 ∧ formats.count .lfo = 1 ∧
      formats.count .trn = 1 ∧ formats.count .name = 10 := by decide

/-- R197: what the host issues for offset 12 of a record (P1 #4 and #5 of `95_test_vectors.md`). -/
theorem test_record_byte_commands :
    (decodeBytesFrom 12 [0x4E#8]).map encode = [0x3100004E#32, 0x1100004E#32] := by decide

/-- R198: the pack command and the CKADD of its byte (P3 of `95_test_vectors.md`, offset 110). -/
theorem test_record_byte_encode :
    (encodeBytesFrom 110 [(5#8, 0#8, 0#8)]).map encode = [0x26000005#32, 0x31000004#32] := by decide

/-- R200: the frame of an empty list of records. -/
theorem test_envelope_bytes :
    envelopeBytes [] 0x00#8 = some [0xF0#8, 0x43#8, 0x00#8, 0x09#8, 0x00#8, 0x00#8, 0x00#8, 0xF7#8] := by decide

/-- S9 and P3 of `95_test_vectors.md`: the size bytes of 32 records and of one; R153: 127 records are the most. -/
theorem test_bulk_size :
    (bulkSize 32).map (fun s => (sizeFirst s, sizeSecond s)) = some (0x20#8, 0x00#8) ∧
    (bulkSize 1).map (fun s => (sizeFirst s, sizeSecond s)) = some (0x01#8, 0x00#8) ∧
    (bulkSize 127).map (fun s => (sizeFirst s, sizeSecond s)) = some (0x7F#8, 0x00#8) ∧ bulkSize 128 = none := by decide

/-- `95_test_vectors.md` 2.14 and P5: the trailers of 01 02 03 and of 10 10. -/
theorem test_trailer : trailerOf [0x01#8, 0x02#8, 0x03#8] = 0x7A#8 ∧ trailerOf [0x10#8, 0x10#8] = 0x60#8 := by decide

/-- R204: a stream that ends before its one record issues no CKCMP. -/
theorem test_envelope_short_stream :
    envelopeDecodeCommands 0x01#8 0x00#8 [] 0x4A#8 = [.unpkSize 0x00#8 0x01#8, .ckclr] := by decide

/-- `95_test_vectors.md` 2.1, 2.12, 2.14 and part 3. -/
theorem test_assemble :
    assemble ["BFX 0xB8, lo=3, w=4".toList, "PACK.DTRS detune=-3, rs=5 ; a comment".toList, "".toList,
      "CTRLWR CKENF".toList, "STCLR ERR|CKBAD".toList, "UNPK.SIZE 0x20, 0x00".toList] =
    .ok [0x080043B8#32, 0x2100FD05#32, 0x04000001#32, 0x02000003#32, 0x19002000#32] := by decide

/-- R76: a value that does not fit is an assembler error. -/
theorem test_assemble_rejects :
    assembleLine "CKADD 256".toList = .error .doesNotFit ∧ assembleLine "CKADX 1".toList = .error .unknownMnemonic := by
  decide

/-- Log entry 14: a positional operand after a named one. -/
theorem test_assemble_positional_after_named :
    assembleLine "BFX lo=3, 0xB8, w=4".toList = assembleLine "BFX 0xB8, lo=3, w=4".toList := by decide

theorem test_show : showInstr (.packTrn 0xF4#8) = "PACK.TRN transpose=-12" := by decide

/-! ### Witnesses: states and operands that meet the hypotheses of the statements -/

/-- A state with one response waiting, one taken, and these actions pending. -/
def busy (actions : List HostAction) : State :=
  { State.reset with responses := [0x80000000#32], received := [0#32], index := 2, pending := actions }

theorem test_witness_reset_action : (busy [.reset, .takeResponse]).pending = .reset :: [.takeResponse] := rfl

theorem test_witness_decoded_command :
    (busy [.command 0x04000001#32]).pending = [.command 0x04000001#32] ∧ decode 0x04000001#32 = .ok (.ctrlwr 1#8) := by
  decide

theorem test_witness_illegal_command :
    (busy [.command 0x00000001#32]).pending = [.command 0x00000001#32] ∧ decodeByTable 0x00000001#32 = none := by decide

/-- The ends of the five ranges of reserved opcodes. -/
theorem test_witness_reserved_opcodes :
    [0x05, 0x07, 0x0A, 0x0F, 0x1A, 0x1F, 0x2A, 0x2F, 0x34, 0xFF].all (fun n : Nat =>
      let op := (BitVec.ofNat 8 n ++ 0x000010#24).toNat / 2 ^ 24
      decide (0x05 ≤ op ∧ op ≤ 0x07 ∨ 0x0A ≤ op ∧ op ≤ 0x0F ∨ 0x1A ≤ op ∧ op ≤ 0x1F ∨ 0x2A ≤ op ∧ op ≤ 0x2F ∨ 0x34 ≤ op))
      = true ∧ (busy [.command 0x34000010#32]).pending = [.command 0x34000010#32] := by decide

theorem test_witness_ill_formed :
    [Instr.stclr 8#8, .ctrlwr 2#8, .bfx 0#8 0#4 0#4, .bfi 0#8 8#4 1#4 0#8].all (fun i => !i.wellFormed) = true := by decide

theorem test_witness_idle_and_take :
    State.reset.pending = [] ∧ (busy [.takeResponse]).pending = [.takeResponse] ∧
      (busy [.takeResponse]).responses = [0x80000000#32] ∧
      ({ State.reset with pending := [.takeResponse] } : State).responses = [] := by decide

theorem test_witness_well_formed :
    [Instr.stclr 7#8, .ctrlwr 1#8, .bfx 0xFF#8 7#4 1#4, .bfi 0#8 0#4 8#4 0xFF#8, .packSize 16383#14, .nop].all
      (fun i => i.wellFormed) = true := by decide

theorem test_witness_decode_ok : decode 0x24FFFFFF#32 = .ok (.packLfo 0xFF#8 0xFF#8 0xFF#8) := by decide

/-- Format Z: for each of its opcodes a legal word and an illegal one. -/
theorem test_witness_format_z :
    [0x00#8, 0x01#8, 0x03#8, 0x30#8, 0x32#8].all (fun op =>
      (op ++ 0#24).extractLsb' 24 8 == op && (op ++ 0#24).extractLsb' 0 24 == 0#24 &&
      (op ++ 1#24).extractLsb' 24 8 == op && (op ++ 1#24).extractLsb' 0 24 != 0#24) = true := by decide

/-- Format B, STCLR and CTRLWR. -/
theorem test_witness_format_b :
    [0x02#8, 0x04#8, 0x10#8, 0x11#8, 0x12#8, 0x13#8, 0x14#8, 0x15#8, 0x16#8, 0x17#8, 0x18#8, 0x26#8, 0x27#8, 0x28#8,
      0x31#8, 0x33#8].all (fun op =>
      (op ++ 1#24).extractLsb' 24 8 == op && (op ++ 1#24).extractLsb' 8 16 == 0#16 &&
      (op ++ 1#24).extractLsb' 3 21 == 0#21 && (op ++ 1#24).extractLsb' 1 23 == 0#23 &&
      (op ++ 256#24).extractLsb' 24 8 == op && (op ++ 256#24).extractLsb' 8 16 != 0#16 &&
      (op ++ 8#24).extractLsb' 3 21 != 0#21 && (op ++ 2#24).extractLsb' 1 23 != 0#23) = true := by decide

/-- Format BB, PACK.LFO and PACK.SIZE. -/
theorem test_witness_format_bb :
    [0x19#8, 0x20#8, 0x21#8, 0x22#8, 0x23#8, 0x24#8, 0x25#8, 0x29#8].all (fun op =>
      (op ++ 0x00FFFF#24).extractLsb' 24 8 == op && (op ++ 0x00FFFF#24).extractLsb' 16 8 == 0#8 &&
      (op ++ 0x003FFF#24).extractLsb' 14 10 == 0#10 && (op ++ 0x004000#24).extractLsb' 14 10 != 0#10 &&
      (op ++ 0x010000#24).extractLsb' 24 8 == op && (op ++ 0x010000#24).extractLsb' 16 8 != 0#8) = true := by decide

theorem test_witness_masks_and_values :
    (7#8).toNat < 8 ∧ 8 ≤ (8#8).toNat ∧ (1#8).toNat < 2 ∧ 2 ≤ (2#8).toNat := by decide

/-- Legal and illegal geometries at the bounds of R91. -/
theorem test_witness_geometry :
    LegalField 7 1 ∧ LegalField 0 8 ∧ LegalField 0 1 ∧ ¬LegalField 0 0 ∧ ¬LegalField 0 9 ∧ ¬LegalField 8 1 ∧
      ¬LegalField 4 5 := by
  unfold LegalField; decide

/-- Words of BFX and BFI with a legal and with an illegal geometry, and a BFX with a reserved bit. -/
theorem test_witness_bfx_and_bfi_words :
    let w := fun c : Word => (c.extractLsb' 24 8, c.extractLsb' 16 8, (c.extractLsb' 8 4).toNat, (c.extractLsb' 12 4).toNat)
    w 0x080017FF#32 = (0x08#8, 0#8, 7, 1) ∧ w 0x080054A5#32 = (0x08#8, 0#8, 4, 5) ∧ w 0x080143A5#32 = (0x08#8, 1#8, 3, 4) ∧
      w 0x090180FF#32 = (0x09#8, 1#8, 0, 8) ∧ w 0x090000A5#32 = (0x09#8, 0#8, 0, 0) := by decide

/-- Two disjoint fields, on either side. -/
theorem test_witness_disjoint_fields :
    LegalField 3 4 ∧ LegalField 7 1 ∧ LegalField 0 3 ∧ (3 + 4 ≤ 7 ∨ 7 + 1 ≤ 3) ∧ (3 + 4 ≤ 0 ∨ 0 + 3 ≤ 3) := by
  unfold LegalField; decide

/-- Bytes that differ only in bits no field covers. -/
theorem test_witness_uncovered_bits :
    0xF5#8 &&& 0x0F#8 = 0x05#8 &&& 0x0F#8 ∧ 0xBA#8 &&& 0x7F#8 = 0x3A#8 &&& 0x7F#8 ∧ 0xFF#8 &&& 0x1F#8 = 0x1F#8 &&& 0x1F#8 := by
  decide

/-- In-range values at both ends of every range of `41_unpack.md` R101. -/
theorem test_witness_in_range :
    (3#8).toNat ≤ 3 ∧ (7#8).toNat ≤ 7 ∧ (1#8).toNat ≤ 1 ∧ (31#8).toNat ≤ 31 ∧ (5#8).toNat ≤ 5 ∧ -7 ≤ (0xF9#8).toInt ∧
      (0xF9#8).toInt ≤ 7 ∧ -7 ≤ (7#8).toInt ∧ (7#8).toInt ≤ 7 ∧ 1 ≤ (1#8).toNat ∧ (1#8).toNat ≤ 32 ∧ 1 ≤ (32#8).toNat ∧
      (32#8).toNat ≤ 32 ∧ -24 ≤ (0xE8#8).toInt ∧ (0xE8#8).toInt ≤ 24 ∧ -24 ≤ (24#8).toInt ∧ (24#8).toInt ≤ 24 ∧
      (0#8).toNat ≤ 99 ∧ (99#8).toNat ≤ 99 := by decide

theorem test_witness_seven_bit_bytes : (0x7F#8).toNat < 128 ∧ (0x00#8).toNat < 128 := by decide

/-- A checksum over no byte, over two bytes with an illegal word between, its trailer read, and compared. -/
theorem test_witness_checksum_runs :
    (busy [.command 0x30000000#32, .reset]).pending = (encode .ckclr :: []).map .command ++ [.reset] ∧
    (busy [.command 0x30000000#32, .command 0x31000001#32, .command 0x31000110#32, .command 0x310000FF#32]).pending =
      (encode .ckclr :: [0x31000001#32, 0x31000110#32, 0x310000FF#32]).map .command ++ [] ∧
    (busy [.command 0x30000000#32, .command 0x31000001#32, .command 0x32000000#32]).pending =
      (encode .ckclr :: [0x31000001#32] ++ [encode .ckrd]).map .command ++ [] ∧
    (busy [.command 0x30000000#32, .command 0x31000001#32, .command 0x3300007F#32]).pending =
      (encode .ckclr :: [0x31000001#32] ++ [encode (.ckcmp 0x7F#8)]).map .command ++ [] ∧
    addedBytes [0x31000001#32, 0x31000110#32, 0x310000FF#32] = [0x01#8, 0xFF#8] := by decide

theorem test_witness_no_ckclr : ∀ c ∈ [0x31000001#32, 0x310000FF#32], decode c ≠ .ok .ckclr := by
  intro c hc; fin_cases hc <;> decide

/-- Two orders of the same command words. -/
theorem test_witness_permuted : [0x31000001#32, 0x31000002#32].Perm [0x31000002#32, 0x31000001#32] := by decide

theorem test_witness_record_presents :
    (∀ i ∈ [Instr.unpkU99 0x96#8, .unpkDtrs 0x3A#8], isUnpack i = true) ∧
    (busy [.command 0x02000001#32, .command 0x18000096#32, .command 0x1100003A#32]).Presents
      (.stclr 1#8 :: [.unpkU99 0x96#8, .unpkDtrs 0x3A#8]) [] := by
  unfold State.Presents; decide

theorem test_witness_command_list :
    (busy [.command 0x00000001#32, .command 0x00000000#32, .reset]).pending =
      [0x00000001#32, 0x00000000#32].map .command ++ [.reset] := by decide

theorem test_witness_csum : (∃ t, exec .ckclr (busy []) = .next t) ∧ (∃ t, exec (.ckadd 0xFF#8) (busy []) = .next t) ∧
    (∃ t, exec (.ckcmp 0#8) (busy []) = .next t) ∧ Instr.ckcmp 0#8 ≠ .ckclr ∧ ∀ b, Instr.ckcmp 0#8 ≠ .ckadd b :=
  ⟨⟨_, rfl⟩, ⟨_, rfl⟩, ⟨_, rfl⟩, by decide, fun _ h => by cases h⟩

/-- ERR set by a range error and by an enforced mismatch, CKBAD by a mismatch, ILL by an ill-formed command. -/
theorem test_witness_flags_set :
    (∃ t, exec (.unpkU99 100#8) (busy []) = .next t ∧ t.status.err = true) ∧
    (∃ t, exec (.ckcmp 1#8) (given 0 false false false true 0#32) = .next t ∧ t.status.err = true ∧ t.status.ckbad = true) ∧
    (∃ t, exec (.stclr 8#8) (busy []) = .next t ∧ t.status.ill = true) ∧ (busy []).status.err = false ∧
    (busy []).status.ckbad = false ∧ (busy []).status.ill = false :=
  ⟨⟨_, rfl, by decide⟩, ⟨_, rfl, by decide, by decide⟩, ⟨_, rfl, by decide⟩, rfl, rfl, rfl⟩

/-- Every flag set, an STCLR pending that names only the other flags; and one that is no STCLR. -/
theorem test_witness_sticky :
    (∃ t, step (given 0 true false false false 0x02000006#32) = .next t) ∧
    (∃ t, step (given 0 false true false false 0x02000005#32) = .next t) ∧
    (∃ t, step (given 0 false false true false 0x02000003#32) = .next t) ∧
    (given 0 true false false false 0x02000006#32).pending.head? ≠ some .reset ∧
    decode 0x02000006#32 = .ok (.stclr 6#8) ∧ (6#8).getLsbD 0 = false ∧
    decode 0x02000005#32 = .ok (.stclr 5#8) ∧ (5#8).getLsbD 1 = false ∧
    decode 0x02000003#32 = .ok (.stclr 3#8) ∧ (3#8).getLsbD 2 = false :=
  ⟨⟨_, rfl⟩, ⟨_, rfl⟩, ⟨_, rfl⟩, by decide, by decide, by decide, by decide, by decide, by decide, by decide⟩

theorem test_witness_not_status_reading : Instr.ckrd ≠ .strd ∧ ∀ mask, Instr.ckrd ≠ .stclr mask :=
  ⟨by decide, fun _ h => by cases h⟩

theorem test_witness_idempotent :
    isStateless (.bfx 0xFF#8 7#4 1#4) = true ∧ isStateless .strd = true ∧ isStateless (.packU99 255#8) = true ∧
      isUnpack (.unpkU99 99#8) = true ∧ rangeError (.unpkU99 99#8) = false := by decide

/-- States, not the reset state, in which both invariants hold and from which a step goes on: one command, one response
taken, one reset, one idle step. -/
theorem test_witness_invariants :
    [busy [.command 0x00000001#32], busy [.takeResponse], busy [.reset], busy []].all (fun s =>
      decide (s.received.length + s.responses.length = s.index) && (s.received ++ s.responses).all legalResponse &&
        (afterStep s).isSome) = true := by decide

theorem test_witness_signed_lane : (-128 : Int) ≤ -128 ∧ (-128 : Int) ≤ 127 ∧ (-128 : Int) ≤ 127 ∧ (127 : Int) ≤ 127 := by
  decide

end Sys2Proof.Tests
end

section
/-! The statements of `00_scope.md`, and the equations of the step they rest on. -/

namespace Sys2Proof.Machine

/-- With a command word next, the step only moves past the action and runs the word. -/
theorem step_of_command (s : State) (c : Word) (rest : List HostAction) (hp : s.pending = .command c :: rest) :
    step s = runWord c (s.proceed rest) := by
  rw [step, hp]
  rfl

/-- A word that decodes to a command is run as that command. -/
theorem runWord_of_decode_ok (c : Word) (i : Instr) (s : State) (hd : decode c = .ok i) :
    runWord c s = exec i s := by
  rw [runWord, hd]

/-- Settles O3: the step runs the word offered, and running the word is running the command it decodes to. -/
theorem stepRunsTheDecodedCommand : Obligations.StepRunsTheDecodedCommand := by
  intro s c rest i hp hd
  calc step s = runWord c (s.proceed rest) := step_of_command s c rest hp
    _ = exec i (s.proceed rest) := runWord_of_decode_ok c i _ hd

end Sys2Proof.Machine
end

section
/-! What each command does to the state, said once for all 31: the kinds of effect, and which commands have which. -/

namespace Sys2Proof.Machine

/-! ### Range errors, format by format -/

/-- A field is out of range by its raw value, written as a number (`41_unpack.md` R103). -/
theorem outOfRange_iff (lo width : Nat) (bias min max : Int) (signed : Bool) (b : Byte) (hw : width ≤ 8) :
    Field.outOfRange ⟨lo, width, bias, min, max, signed⟩ b = true ↔
      ((b.toNat / 2 ^ lo % 2 ^ width : Nat) : Int) + bias < min ∨
        max < ((b.toNat / 2 ^ lo % 2 ^ width : Nat) : Int) + bias := by
  rw [Field.outOfRange, oor, Field.internal, zext8, Field.raw, ext_toNat b lo width hw, decide_eq_true_iff]

/-- Of an unsigned field without bias only the upper end is checked. -/
theorem plainField_outOfRange_iff (lo width : Nat) (max : Int) (b : Byte) (hw : width ≤ 8) :
    (plainField lo width max).outOfRange b = true ↔ max < (b.toNat / 2 ^ lo % 2 ^ width : Nat) := by
  rw [plainField, outOfRange_iff _ _ _ _ _ _ _ hw]
  omega

/-- Some flag of the byte's unpack is 1 (`41_unpack.md` R103). -/
def Format.rangeFlag (f : Format) (b : Byte) : Bool :=
  f.field0.outOfRange b || optOutOfRange f.field1 b || optOutOfRange f.field2 b

theorem unpackByte_eq_raiseErr (f : Format) (b : Byte) (s : State) :
    unpackByte f b s = (s.raiseErr (f.rangeFlag b)).respond (f.unpack b) := rfl

theorem rangeFlag_iff_of_one (f0 : Field) (b : Byte) :
    Format.rangeFlag ⟨f0, none, none⟩ b = true ↔ f0.outOfRange b = true := by
  simp [Format.rangeFlag, optOutOfRange]

theorem rangeFlag_iff_of_two (f0 f1 : Field) (b : Byte) :
    Format.rangeFlag ⟨f0, some f1, none⟩ b = true ↔ f0.outOfRange b = true ∨ f1.outOfRange b = true := by
  simp [Format.rangeFlag, optOutOfRange]

theorem rangeFlag_iff_of_three (f0 f1 f2 : Field) (b : Byte) :
    Format.rangeFlag ⟨f0, some f1, some f2⟩ b = true ↔
      f0.outOfRange b = true ∨ f1.outOfRange b = true ∨ f2.outOfRange b = true := by
  simp [Format.rangeFlag, optOutOfRange, or_assoc]

theorem curve_rangeFlag (leftHigh : Bool) (b : Byte) : (curveFormat leftHigh).rangeFlag b = false := by
  rw [← Bool.not_eq_true]
  simp (disch := decide) only [curveFormat, rangeFlag_iff_of_two, plainField_outOfRange_iff]
  omega

theorem dtrs_rangeFlag (b : Byte) : dtrsFormat.rangeFlag b = rangeError (.unpkDtrs b) := by
  rw [Bool.eq_iff_iff]
  simp (disch := decide) only [dtrsFormat, rangeFlag_iff_of_two, plainField_outOfRange_iff, outOfRange_iff, rangeError,
    beq_iff_eq]
  omega

theorem sens_rangeFlag (b : Byte) : sensFormat.rangeFlag b = rangeError (.unpkSens b) := by
  rw [Bool.eq_iff_iff]
  simp (disch := decide) only [sensFormat, rangeFlag_iff_of_two, plainField_outOfRange_iff, rangeError,
    decide_eq_true_iff]
  omega

theorem osc_rangeFlag (b : Byte) : oscFormat.rangeFlag b = rangeError (.unpkOsc b) := by
  rw [Bool.eq_iff_iff]
  simp (disch := decide) only [oscFormat, rangeFlag_iff_of_two, plainField_outOfRange_iff, rangeError,
    decide_eq_true_iff]
  omega

theorem lfo_rangeFlag (b : Byte) : lfoFormat.rangeFlag b = rangeError (.unpkLfo b) := by
  rw [Bool.eq_iff_iff]
  simp (disch := decide) only [lfoFormat, rangeFlag_iff_of_three, plainField_outOfRange_iff, rangeError,
    decide_eq_true_iff]
  omega

theorem fbks_rangeFlag (b : Byte) : fbksFormat.rangeFlag b = false := by
  rw [← Bool.not_eq_true]
  simp (disch := decide) only [fbksFormat, rangeFlag_iff_of_two, plainField_outOfRange_iff]
  omega

theorem alg_rangeFlag (b : Byte) : algFormat.rangeFlag b = false := by
  rw [← Bool.not_eq_true]
  simp (disch := decide) only [algFormat, rangeFlag_iff_of_one, outOfRange_iff]
  omega

theorem trn_rangeFlag (b : Byte) : trnFormat.rangeFlag b = rangeError (.unpkTrn b) := by
  rw [Bool.eq_iff_iff]
  simp (disch := decide) only [trnFormat, rangeFlag_iff_of_one, outOfRange_iff, rangeError,
    decide_eq_true_iff]
  omega

theorem u99_rangeFlag (b : Byte) : u99Format.rangeFlag b = rangeError (.unpkU99 b) := by
  rw [Bool.eq_iff_iff]
  simp (disch := decide) only [u99Format, rangeFlag_iff_of_one, plainField_outOfRange_iff, rangeError,
    decide_eq_true_iff]
  omega

/-- An unpack answers lanes and flags and raises the sticky ERR on a range error; it writes nothing else
(`41_unpack.md` R100, R103). -/
theorem exec_of_isUnpack (i : Instr) (hu : isUnpack i = true) :
    ∃ r : Response, ∀ s, exec i s = .next ((s.raiseErr (rangeError i)).respond r) := by
  have of_format (f : Format) (b : Byte) (hrun : ∀ s, exec i s = .next (unpackByte f b s))
      (hflag : f.rangeFlag b = rangeError i) :
      ∃ r : Response, ∀ s, exec i s = .next ((s.raiseErr (rangeError i)).respond r) :=
    ⟨f.unpack b, fun s => by rw [hrun, unpackByte_eq_raiseErr, hflag]⟩
  cases i with
  | unpkCurve b => exact of_format (curveFormat Config.curveLeftHigh) b (fun _ => rfl) (curve_rangeFlag _ b)
  | unpkDtrs b => exact of_format dtrsFormat b (fun _ => rfl) (dtrs_rangeFlag b)
  | unpkSens b => exact of_format sensFormat b (fun _ => rfl) (sens_rangeFlag b)
  | unpkOsc b => exact of_format oscFormat b (fun _ => rfl) (osc_rangeFlag b)
  | unpkLfo b => exact of_format lfoFormat b (fun _ => rfl) (lfo_rangeFlag b)
  | unpkFbks b => exact of_format fbksFormat b (fun _ => rfl) (fbks_rangeFlag b)
  | unpkAlg b => exact of_format algFormat b (fun _ => rfl) (alg_rangeFlag b)
  | unpkTrn b => exact of_format trnFormat b (fun _ => rfl) (trn_rangeFlag b)
  | unpkU99 b => exact of_format u99Format b (fun _ => rfl) (u99_rangeFlag b)
  | _ => cases hu

/-! ### The kinds of effect -/

/-- The bits of a byte from `k` on are 0 exactly when the byte is below `2 ^ k`. -/
theorem highBits_eq_zero_iff (v : Byte) (k m : Nat) (hkm : k + m = 8) : v.extractLsb' k m = 0#m ↔ v.toNat < 2 ^ k := by
  have hv : v.toNat / 2 ^ k < 2 ^ m := by
    have := v.isLt
    rwa [Nat.div_lt_iff_lt_mul (Nat.two_pow_pos k), ← Nat.pow_add, Nat.add_comm, hkm]
  rw [← BitVec.toNat_inj, BitVec.extractLsb'_toNat, Nat.shiftRight_eq_div_pow, Nat.mod_eq_of_lt hv, BitVec.toNat_ofNat,
    Nat.zero_mod, Nat.div_eq_zero_iff_lt (Nat.two_pow_pos k)]

/-- What a command does, from every state: most commands only answer, from CSUM and CTRL at most; STRD, STCLR, CTRLWR
and the checksum commands that write stand each for itself. -/
inductive Effect : Instr → Prop where
  /-- The command writes no register and does not read STATUS. -/
  | answers {i : Instr} (r : Byte → CtrlReg → Response)
      (run : ∀ s, exec i s = .next (s.respond (r s.csum s.ctrl))) : Effect i
  /-- The command raises ERR on a range error, and answers from its operand alone. -/
  | unpacks {i : Instr} (r : Response)
      (run : ∀ s, exec i s = .next ((s.raiseErr (rangeError i)).respond r)) : Effect i
  /-- An ill-formed term takes the illegal outcome. -/
  | illegal {i : Instr} (hill : i.wellFormed = false) (run : ∀ s, exec i s = .next s.takeIllegal) : Effect i
  | strd : Effect .strd
  | stclr (mask : Byte) (run : ∀ s, exec (.stclr mask) s = .next (s.acknowledge mask)) : Effect (.stclr mask)
  | ctrlwr (v : Byte)
      (run : ∀ s, exec (.ctrlwr v) s = .next ((s.writeCtrl v).respond { r0 := (s.writeCtrl v).ctrl.byte })) :
      Effect (.ctrlwr v)
  | ckclr : Effect .ckclr
  | ckadd (b : Byte) : Effect (.ckadd b)
  | ckcmp (b : Byte) : Effect (.ckcmp b)

theorem effect_stclr (mask : Byte) : Effect (.stclr mask) := by
  by_cases h : mask.extractLsb' 3 5 = 0#5
  · exact .stclr mask fun s => by rw [exec, execStclr, if_pos h]
  · refine .illegal ?_ fun s => by rw [exec, execStclr, if_neg h]
    rw [highBits_eq_zero_iff mask 3 5 rfl] at h
    exact decide_eq_false h

theorem effect_ctrlwr (v : Byte) : Effect (.ctrlwr v) := by
  by_cases h : v.extractLsb' 1 7 = 0#7
  · exact .ctrlwr v fun s => by rw [exec, execCtrlwr, if_pos h]
  · refine .illegal ?_ fun s => by rw [exec, execCtrlwr, if_neg h]
    rw [highBits_eq_zero_iff v 1 7 rfl] at h
    exact decide_eq_false h

theorem effect_bfx (byte : Byte) (lo w : BitVec 4) : Effect (.bfx byte lo w) := by
  by_cases h : legalGeometry lo w = true
  · exact .answers (fun _ _ => { r0 := ext byte lo.toNat w.toNat }) fun s => by rw [exec, execBfx, if_pos h]
  · refine .illegal ?_ fun s => by rw [exec, execBfx, if_neg h]
    rw [wellFormed_bfx, Bool.eq_false_iff]
    exact h

theorem effect_bfi (base : Byte) (lo w : BitVec 4) (v : Byte) : Effect (.bfi base lo w v) := by
  by_cases h : legalGeometry lo w = true
  · exact .answers (fun _ _ => { r0 := ins base lo.toNat w.toNat v }) fun s => by rw [exec, execBfi, if_pos h]
  · refine .illegal ?_ fun s => by rw [exec, execBfi, if_neg h]
    rw [wellFormed_bfi, Bool.eq_false_iff]
    exact h

theorem effect_of_isUnpack (i : Instr) (hu : isUnpack i = true) : Effect i :=
  let ⟨r, hrun⟩ := exec_of_isUnpack i hu
  .unpacks r hrun

/-- A pack answers one byte, whatever the state. -/
theorem effect_of_packLanes (i : Instr) (f : Format) (v0 v1 v2 : Byte)
    (hrun : ∀ s, exec i s = .next (packLanes f v0 v1 v2 s)) : Effect i :=
  .answers (fun _ _ => { r0 := f.pack v0 v1 v2 }) hrun

/-- The 31 commands have no other effects. -/
theorem effect_of (i : Instr) : Effect i := by
  cases i with
  | nop => exact .answers (fun _ _ => {}) fun _ => rfl
  | strd => exact .strd
  | stclr mask => exact effect_stclr mask
  | ctrlrd => exact .answers (fun _ ctrl => { r0 := ctrl.byte }) fun _ => rfl
  | ctrlwr v => exact effect_ctrlwr v
  | bfx byte lo w => exact effect_bfx byte lo w
  | bfi base lo w v => exact effect_bfi base lo w v
  | unpkCurve | unpkDtrs | unpkSens | unpkOsc | unpkLfo | unpkFbks | unpkAlg | unpkTrn | unpkU99 =>
    exact effect_of_isUnpack _ rfl
  | unpkSize second first => exact .answers (fun _ _ => _) fun _ => rfl
  | packCurve | packDtrs | packSens | packOsc | packLfo | packFbks | packAlg | packTrn | packU99 =>
    exact effect_of_packLanes _ _ _ _ _ fun _ => rfl
  | packSize size => exact .answers (fun _ _ => { r0 := sizeSecond size, r1 := sizeFirst size }) fun _ => rfl
  | ckclr => exact .ckclr
  | ckadd b => exact .ckadd b
  | ckrd => exact .answers (fun csum _ => { r0 := csum &&& 0x7F, r1 := csum }) fun _ => rfl
  | ckcmp b => exact .ckcmp b

end Sys2Proof.Machine
end

section
/-! The statements of `10_state.md`: which commands write CSUM, STATUS and CTRL, and what depends on STATUS. -/

namespace Sys2Proof.Machine

/-! ### CSUM -/

/-- Every command but CKCLR and CKADD leaves CSUM (`10_state.md` R28). -/
theorem exec_csum_of_ne (i : Instr) (s t : State) (h : exec i s = .next t) (hclr : i ≠ .ckclr)
    (hadd : ∀ b, i ≠ .ckadd b) : t.csum = s.csum := by
  cases effect_of i with
  | answers r run | unpacks r run | illegal _ run | stclr _ run | ctrlwr _ run =>
    rw [run] at h
    cases h
    rfl
  | strd | ckcmp =>
    cases h
    rfl
  | ckclr => exact absurd rfl hclr
  | ckadd b => exact absurd rfl (hadd b)

/-- Settles O50: the two writers by their equations, the others by the kinds of effect. -/
theorem csumIsWrittenOnlyByCkclrAndCkadd : Obligations.CsumIsWrittenOnlyByCkclrAndCkadd := by
  refine ⟨rfl, fun i s t h => ⟨?_, ?_, exec_csum_of_ne i s t h⟩⟩
  · rintro rfl
    cases h
    rfl
  · rintro b rfl
    cases h
    rfl

/-! ### STATUS -/

/-- The trailer is CSUM modulo 128 (`44_checksum.md` R163). -/
theorem trailer_toNat (s : State) : s.trailer.toNat = s.csum.toNat % 128 := by
  rw [State.trailer, BitVec.toNat_and]
  exact Nat.and_two_pow_sub_one_eq_mod _ 7

/-- A mismatch of the trailer, as numbers (`44_checksum.md` R165). -/
theorem bne_trailer_iff (b : Byte) (s : State) : (b != s.trailer) = true ↔ b.toNat ≠ s.csum.toNat % 128 := by
  rw [bne_iff_ne, ne_eq, ← BitVec.toNat_inj, trailer_toNat]

/-- What a command can do to STATUS: nothing, raise ERR, raise ILL, clear the flags of a mask, or raise CKBAD with ERR
(`10_state.md` R23, `60_exceptions.md` R211). -/
theorem exec_status_cases (i : Instr) (s t : State) (h : exec i s = .next t) :
    t.status = s.status ∨
    t.status = (s.raiseErr (rangeError i)).status ∨
    (i.wellFormed = false ∧ t.status = s.raiseIll.status) ∨
    (∃ mask, i = .stclr mask ∧ t.status = (s.clearStatus mask).status) ∨
    (∃ b, i = .ckcmp b ∧
      t.status = ((s.raiseCkbad (b != s.trailer)).raiseErr ((b != s.trailer) && s.ctrl.ckenf)).status) := by
  cases effect_of i with
  | answers r run | ctrlwr _ run =>
    rw [run] at h
    cases h
    exact .inl rfl
  | strd | ckclr | ckadd =>
    cases h
    exact .inl rfl
  | unpacks r run =>
    rw [run] at h
    cases h
    exact .inr (.inl rfl)
  | illegal hill run =>
    rw [run] at h
    cases h
    exact .inr (.inr (.inl ⟨hill, rfl⟩))
  | stclr mask run =>
    rw [run] at h
    cases h
    exact .inr (.inr (.inr (.inl ⟨mask, rfl, rfl⟩)))
  | ckcmp b =>
    cases h
    exact .inr (.inr (.inr (.inr ⟨b, rfl, rfl⟩)))

/-- Settles O51: of the five things a command can do to STATUS, only three turn a flag on. -/
theorem whatSetsEachStatusFlag : Obligations.WhatSetsEachStatusFlag := by
  intro i s t h
  rcases exec_status_cases i s t h with hst | hst | ⟨hill, hst⟩ | ⟨mask, rfl, hst⟩ | ⟨b, rfl, hst⟩ <;> rw [hst]
  case inl => simp +contextual
  case inr.inl => simp +contextual
  case inr.inr.inl => simp +contextual [hill]
  case inr.inr.inr.inl => simp +contextual
  case inr.inr.inr.inr => simp +contextual [← bne_trailer_iff]

/-- Every flag that is 1 in the first value of STATUS is 1 in the second. -/
def StatusReg.Le (r r' : StatusReg) : Prop := r.err ≤ r'.err ∧ r.ckbad ≤ r'.ckbad ∧ r.ill ≤ r'.ill

theorem StatusReg.Le.refl (r : StatusReg) : r.Le r := ⟨le_rfl, le_rfl, le_rfl⟩

theorem le_raiseErr_status (s : State) (c : Bool) : s.status.Le (s.raiseErr c).status :=
  ⟨Bool.left_le_or _ _, le_rfl, le_rfl⟩

theorem le_raiseIll_status (s : State) : s.status.Le s.raiseIll.status := ⟨le_rfl, le_rfl, Bool.le_true _⟩

theorem le_raiseCkbad_raiseErr_status (s : State) (c d : Bool) : s.status.Le ((s.raiseCkbad c).raiseErr d).status :=
  ⟨Bool.left_le_or _ _, Bool.left_le_or _ _, le_rfl⟩

/-- A command keeps every flag that is set, unless it is an STCLR (`10_state.md` R23). -/
theorem exec_status_le_or_stclr (i : Instr) (s t : State) (h : exec i s = .next t) :
    s.status.Le t.status ∨ ∃ mask, i = .stclr mask ∧ t.status = (s.clearStatus mask).status := by
  rcases exec_status_cases i s t h with hst | hst | ⟨-, hst⟩ | hst | ⟨b, -, hst⟩
  · exact .inl (hst ▸ .refl _)
  · exact .inl (hst ▸ le_raiseErr_status s _)
  · exact .inl (hst ▸ le_raiseIll_status s)
  · exact .inr hst
  · exact .inl (hst ▸ le_raiseCkbad_raiseErr_status s _ _)

theorem deliver_status (s : State) : s.deliver.status = s.status := by
  cases h : s.responses with
  | nil => rw [deliver_nil s h]
  | cons w ws => rw [deliver_cons s w ws h]

/-- A step that is no reset keeps every flag that is set, unless the word taken is an STCLR. -/
theorem step_status_le_or_stclr (s t : State) (h : step s = .next t) (hreset : s.pending.head? ≠ some .reset) :
    s.status.Le t.status ∨ ∃ c mask, s.pending.head? = some (.command c) ∧ decode c = .ok (.stclr mask) ∧
      t.status = (s.clearStatus mask).status := by
  rcases step_cases s t h with ⟨-, rfl⟩ | ⟨rest, -, rfl⟩ | ⟨rest, hp, -⟩ | ⟨c, rest, hp, hrun⟩
  case inl => exact .inl (.refl _)
  case inr.inl =>
    rw [deliver_status]
    exact .inl (.refl _)
  case inr.inr.inl =>
    rw [hp] at hreset
    exact absurd rfl hreset
  case inr.inr.inr =>
    rcases runWord_cases c (s.proceed rest) with ⟨i, hd, hexec⟩ | ⟨e, -, hill⟩
    · rcases exec_status_le_or_stclr i (s.proceed rest) t (hexec ▸ hrun) with hle | ⟨mask, rfl, hst⟩
      · exact .inl hle
      · exact .inr ⟨c, mask, by rw [hp, List.head?_cons], hd, hst⟩
    · rw [hill] at hrun
      cases hrun
      exact .inl (le_raiseIll_status s)

/-- Settles O52: a step keeps the flags or is an STCLR, and an STCLR clears no flag that its mask does not name. -/
theorem statusFlagsAreSticky : Obligations.StatusFlagsAreSticky := by
  intro s t h hreset
  rcases step_status_le_or_stclr s t h hreset with ⟨herr, hckbad, hill⟩ | ⟨c, mask, hp, hd, hst⟩
  · exact ⟨fun h0 _ => herr h0, fun h0 _ => hckbad h0, fun h0 _ => hill h0⟩
  · rw [hst, State.clearStatus_status]
    refine ⟨fun h0 hmask => ?_, fun h0 hmask => ?_, fun h0 hmask => ?_⟩ <;>
      simp only [h0, hmask c mask hp hd, Bool.not_false, Bool.and_self]

/-- Settles O53: of the kinds of effect only STRD and STCLR answer from STATUS. -/
theorem resultsDoNotDependOnStatus : Obligations.ResultsDoNotDependOnStatus := by
  intro i s status hstrd hstclr
  cases effect_of i with
  | answers r run | unpacks r run | illegal _ run | ctrlwr _ run =>
    exact ⟨_, _, run s, run _, rfl, rfl, rfl⟩
  | strd => exact absurd rfl hstrd
  | stclr mask => exact absurd rfl (hstclr mask)
  | ckclr | ckadd | ckcmp => exact ⟨_, _, rfl, rfl, rfl, rfl, rfl⟩

/-! ### ERR over a list of unpack commands -/

/-- In format B a word without reserved bits hands on its byte (`30_encoding.md` R62). -/
theorem formatB_append (op b : Byte) (build : Byte → Instr) : formatB (op ++ (0#16 ++ b)) build = .ok (build b) := by
  have hsplit : 0#16 ++ b = (0#8 ++ 0#8 ++ b : BitVec 24) := by
    rw [show (0#8 ++ 0#8 : BitVec 16) = 0#16 from rfl]
  have hzero : (op ++ (0#16 ++ b)).extractLsb' 8 16 = 0#16 := by
    apply BitVec.eq_of_getLsbD_eq
    intro i hi
    simp only [BitVec.getLsbD_extractLsb', BitVec.getLsbD_append]
    simp [show 8 + i < 24 by omega]
  have hlane : lane0 (op ++ (0#16 ++ b)) = b := by rw [hsplit, lane0_append]
  rw [formatB, requireZero, hlane, hzero]
  rfl

theorem decode_encode_of_isUnpack (i : Instr) (hu : isUnpack i = true) : decode (encode i) = .ok i := by
  rw [decode, opOf_encode]
  cases i with
  | unpkCurve | unpkDtrs | unpkSens | unpkOsc | unpkLfo | unpkFbks | unpkAlg | unpkTrn | unpkU99 =>
    exact formatB_append _ _ _
  | _ => cases hu

theorem presents_of_pending_eq {s t : State} {is : List Instr} {rest : List HostAction}
    (hpending : t.pending = s.pending) (hp : s.Presents is rest) : t.Presents is rest :=
  hpending.trans hp

/-- Where the host presents a list of commands, the step runs the first one from a state with the same registers, in
which the others are next. -/
theorem step_of_presents (i : Instr) (is : List Instr) (s : State) (rest : List HostAction)
    (hd : decode (encode i) = .ok i) (hp : s.Presents (i :: is) rest) :
    ∃ s', step s = exec i s' ∧ s'.Presents is rest ∧ s'.csum = s.csum ∧ s'.status = s.status := by
  refine ⟨s.proceed (is.map (fun j => HostAction.command (encode j)) ++ rest), ?_, rfl, rfl, rfl⟩
  exact (step_of_command s _ _ hp).trans (runWord_of_decode_ok _ i _ hd)

theorem run_succ_of_step (M : Host.Core) (k : Nat) (s t : M.State) (h : M.step s = .next t) :
    M.run (k + 1) s = M.run k t := by
  rw [Host.Core.run, h]

@[simp] theorem acknowledge_status (s : State) (mask : Byte) :
    (s.acknowledge mask).status = (s.clearStatus mask).status := rfl

/-- Over any list of unpack commands ERR gathers their range errors; CSUM and the other flags are kept
(`10_state.md` R24). -/
theorem run_unpacks (is : List Instr) (s : State) (rest : List HostAction) (hu : ∀ i ∈ is, isUnpack i = true)
    (hp : s.Presents is rest) :
    ∃ t : State, core.run is.length s = .next t ∧ t.status.err = (s.status.err || is.any rangeError) ∧
      t.csum = s.csum ∧ t.status.ckbad = s.status.ckbad ∧ t.status.ill = s.status.ill := by
  induction is generalizing s with
  | nil => exact ⟨s, rfl, (Bool.or_false _).symm, rfl, rfl, rfl⟩
  | cons i is ih =>
    have hi : isUnpack i = true := hu i List.mem_cons_self
    obtain ⟨s', hstep, hp', hcsum', hstatus'⟩ := step_of_presents i is s rest (decode_encode_of_isUnpack i hi) hp
    obtain ⟨r, hrun⟩ := exec_of_isUnpack i hi
    obtain ⟨t, ht, herr, hcsum, hckbad, hill⟩ := ih ((s'.raiseErr (rangeError i)).respond r)
      (fun j hj => hu j (List.mem_cons_of_mem i hj)) (presents_of_pending_eq rfl hp')
    rw [← hcsum', ← hstatus']
    refine ⟨t, (run_succ_of_step core _ _ _ (hstep.trans (hrun s'))).trans ht, ?_, hcsum, hckbad, hill⟩
    rw [herr, List.any_cons, ← Bool.or_assoc]
    rfl

/-- Settles O56: STCLR 1 clears ERR alone, and the unpacks then gather their range errors in it. -/
theorem errAccumulatesOverARecord : Obligations.ErrAccumulatesOverARecord := by
  intro is s rest hu hp
  obtain ⟨s', hstep, hp', hcsum', hstatus'⟩ := step_of_presents (.stclr 1#8) is s rest (by decide) hp
  have hexec : exec (.stclr 1#8) s' = .next (s'.acknowledge 1#8) := rfl
  obtain ⟨t, ht, herr, hcsum, hckbad, hill⟩ :=
    run_unpacks is (s'.acknowledge 1#8) rest hu (presents_of_pending_eq rfl hp')
  rw [← hcsum', ← hstatus']
  refine ⟨t, (run_succ_of_step core _ _ _ (hstep.trans hexec)).trans ht, ?_, hcsum, ?_, ?_⟩
  · simpa using herr
  · simpa using hckbad
  · simpa using hill

/-! ### Reset -/

/-- Settles O1: every clause reads the reset state. -/
theorem resetStateHasAllBitsZero : Obligations.ResetStateHasAllBitsZero :=
  ⟨rfl, rfl, rfl, rfl, rfl, rfl, rfl⟩

end Sys2Proof.Machine
end

section
/-! The statements of `20_memory.md`: one response for every command, in order, and which commands may be issued
again. -/

namespace Sys2Proof.Machine

/-! ### One command, one response -/

/-- From `s` to `t` one more command is counted and its response `w` waits behind the earlier ones; what the host has
taken and what it does next are unchanged (`20_memory.md` R42). -/
structure State.AnsweredBy (s : State) (w : Word) (t : State) : Prop where
  responses : t.responses = s.responses ++ [w]
  received : t.received = s.received
  pending : t.pending = s.pending
  index : t.index = s.index + 1

/-- Every command, legal or not, answers exactly one word. -/
theorem exec_answeredBy (i : Instr) (s : State) : ∃ w t, exec i s = .next t ∧ s.AnsweredBy w t := by
  cases effect_of i with
  | answers _ run | unpacks _ run | illegal _ run | stclr _ run | ctrlwr _ run =>
    exact ⟨_, _, run s, rfl, rfl, rfl, rfl⟩
  | strd | ckclr | ckadd | ckcmp => exact ⟨_, _, rfl, rfl, rfl, rfl, rfl⟩

/-- Every command word answers exactly one word (`20_memory.md` R42). -/
theorem runWord_answeredBy (c : Word) (s : State) : ∃ w t, runWord c s = .next t ∧ s.AnsweredBy w t := by
  rcases runWord_cases c s with ⟨i, -, hexec⟩ | ⟨e, -, hill⟩
  · rw [hexec]
    exact exec_answeredBy i s
  · exact ⟨illegalWord, s.takeIllegal, hill, rfl, rfl, rfl, rfl⟩

/-! ### The invariant of the response channel -/

/-- Whatever command word is next, the invariant is kept: one response more and one command more. -/
theorem State.AnsweredBy.accounted {s t : State} {w : Word} (h : s.AnsweredBy w t) (hs : s.Accounted) :
    t.Accounted := by
  have hs' : s.received.length + s.responses.length = s.index := hs
  rw [State.Accounted, h.responses, h.received, h.index, List.length_append, List.length_singleton, ← hs',
    Nat.add_assoc]

/-- A response handed over goes from the waiting ones to the taken ones. -/
theorem deliver_accounted (s : State) (hs : s.Accounted) : s.deliver.Accounted := by
  cases h : s.responses with
  | nil =>
    rw [deliver_nil s h]
    exact hs
  | cons w ws =>
    have hs' : s.received.length + s.responses.length = s.index := hs
    rw [h, List.length_cons] at hs'
    rw [deliver_cons s w ws h]
    calc (s.received ++ [w]).length + ws.length
        = s.received.length + (ws.length + 1) := by rw [List.length_append, List.length_singleton]; omega
      _ = s.index := hs'

/-- Settles O57, by what a step can do. -/
theorem stepKeepsResponsesAccounted : Obligations.StepKeepsResponsesAccounted := by
  intro s t hs h
  rcases step_cases s t h with ⟨-, rfl⟩ | ⟨rest, -, rfl⟩ | ⟨rest, -, rfl⟩ | ⟨c, rest, -, hrun⟩
  case inl => exact hs
  case inr.inl => exact deliver_accounted (s.proceed rest) hs
  case inr.inr.inl => exact rfl
  case inr.inr.inr =>
    obtain ⟨w, t', ht', hans⟩ := runWord_answeredBy c (s.proceed rest)
    cases ht'.symm.trans hrun
    exact hans.accounted hs

/-- Settles O59: at reset nothing is counted, waiting or taken. -/
theorem invariantsHoldAtReset : Obligations.InvariantsHoldAtReset :=
  ⟨rfl, fun _ hw => absurd hw List.not_mem_nil⟩

/-! ### A list of command words -/

/-- Settles O54, by induction on the words: each takes one step and appends its one response. -/
theorem commandListAnswersInOrder : Obligations.CommandListAnswersInOrder := by
  intro ws
  induction ws with
  | nil => exact fun s rest hp => ⟨s, [], rfl, (List.append_nil _).symm, rfl, hp, rfl⟩
  | cons c ws ih =>
    intro s rest hp
    obtain ⟨w, s', hrun, hans⟩ := runWord_answeredBy c (s.proceed (ws.map .command ++ rest))
    have hstep : step s = .next s' := (step_of_command s c _ hp).trans hrun
    obtain ⟨t, rs, ht, hresponses, hlength, hpending, hindex⟩ := ih s' rest hans.pending
    refine ⟨t, w :: rs, (run_succ_of_step core _ _ _ hstep).trans ht, ?_, congrArg (· + 1) hlength, hpending, ?_⟩
    · rw [hresponses, hans.responses, State.proceed_responses, List.append_assoc, List.singleton_append]
    · rw [hindex, hans.index, State.proceed_index, List.length_cons, Nat.add_assoc, Nat.add_comm 1]

/-! ### Commands that may be issued again -/

/-- The commands of R49: those that write no state, and the unpacks without a range error. -/
def Idempotent (i : Instr) : Prop := isStateless i = true ∨ isUnpack i = true ∧ rangeError i = false

theorem not_idempotent_of_eq_false {i : Instr} (hstateless : isStateless i = false) (hunpack : isUnpack i = false) :
    ¬ Idempotent i := by
  rw [Idempotent, hstateless, hunpack]
  exact fun h => h.elim Bool.false_ne_true fun h' => Bool.false_ne_true h'.1

/-- None of them raises a range error. -/
theorem Idempotent.rangeError_eq_false {i : Instr} (h : Idempotent i) : rangeError i = false := by
  rcases h with hstateless | ⟨-, hrange⟩
  · cases i with
    | unpkDtrs | unpkSens | unpkOsc | unpkLfo | unpkTrn | unpkU99 => cases hstateless
    | _ => rfl
  · exact hrange

/-- None of them is an illegal command. -/
theorem Idempotent.wellFormed {i : Instr} (h : Idempotent i) : i.wellFormed = true := by
  cases i with
  | stclr | ctrlwr => exact absurd h (not_idempotent_of_eq_false rfl rfl)
  | bfx byte lo w =>
    rw [wellFormed_bfx, ← isStateless_bfx byte]
    exact h.resolve_right fun hunpack => Bool.false_ne_true hunpack.1
  | bfi base lo w v =>
    rw [wellFormed_bfi, ← isStateless_bfi base v]
    exact h.resolve_right fun hunpack => Bool.false_ne_true hunpack.1
  | _ => rfl

theorem State.raiseErr_false (s : State) : s.raiseErr false = s := by
  rw [State.raiseErr, Bool.or_false]

/-- They only answer, and the answer is made from the registers, which they leave as they are (`20_memory.md` R49). -/
theorem Idempotent.exec_eq {i : Instr} (h : Idempotent i) :
    ∃ r : Byte → StatusReg → CtrlReg → Response,
      ∀ s, exec i s = .next (s.answering (r s.csum s.status s.ctrl).word) := by
  cases effect_of i with
  | answers r run => exact ⟨fun csum _ ctrl => r csum ctrl, run⟩
  | strd => exact ⟨fun _ status _ => { r0 := status.byte }, fun _ => rfl⟩
  | unpacks r run =>
    refine ⟨fun _ _ _ => r, fun s => ?_⟩
    rw [run, h.rangeError_eq_false, State.raiseErr_false, respond_eq]
  | illegal hill _ => exact absurd h.wellFormed (Bool.eq_false_iff.1 hill)
  | stclr | ctrlwr | ckclr | ckadd | ckcmp => exact absurd h (not_idempotent_of_eq_false rfl rfl)

/-- Settles O55: the second answer is made from the same registers as the first. -/
theorem statelessCommandsAreIdempotent : Obligations.StatelessCommandsAreIdempotent := by
  intro i s h
  obtain ⟨r, hrun⟩ := Idempotent.exec_eq h
  exact ⟨(r s.csum s.status s.ctrl).word, hrun s, hrun (s.answering _)⟩

end Sys2Proof.Machine
end

section
/-! The responses of `30_encoding.md` R63: which flags a command can answer with, and that only legal words are sent. -/

namespace Sys2Proof.Machine

/-! ### The flags of one response -/

/-- `E2` is 0, and at most one of `E0`, `E1` and `CKM` is 1 (`41_unpack.md` R114, `60_exceptions.md` R216). -/
structure Response.AtMostOneFlag (r : Response) : Prop where
  e2 : r.e2 = false
  e1_e0 : (r.e1 && r.e0) = false
  ckm_range : (r.ckm && (r.e1 || r.e0)) = false

/-- A response with at most one flag is sent as a legal word. -/
theorem Response.AtMostOneFlag.legalResponse_word {r : Response} (h : r.AtMostOneFlag) : legalResponse r.word = true := by
  obtain ⟨he0, he1, he2, hckm⟩ := response_word_flags r
  simp only [legalResponse, response_word_top, he0, he1, he2, hckm, h.e2, h.e1_e0, h.ckm_range]
  exact Bool.or_true _

/-- Lanes alone, the answer of every command that neither unpacks nor compares. -/
theorem atMostOneFlag_of_lanes (r0 r1 r2 : Byte) : Response.AtMostOneFlag { r0 := r0, r1 := r1, r2 := r2 } :=
  ⟨rfl, rfl, rfl⟩

/-- The answer of CKCMP has no range flag. -/
theorem atMostOneFlag_of_ckm (r0 r1 : Byte) (m : Bool) : Response.AtMostOneFlag { r0 := r0, r1 := r1, ckm := m } :=
  ⟨rfl, rfl, Bool.and_false m⟩

/-- A plain field whose valid range is all its raw values has no range error. -/
theorem plainField_outOfRange_eq_false (lo width : Nat) (max : Int) (b : Byte) (hw : width ≤ 8)
    (hmax : (2 ^ width : Nat) ≤ max + 1) : (plainField lo width max).outOfRange b = false := by
  rw [← Bool.not_eq_true, plainField_outOfRange_iff lo width max b hw]
  have hraw : b.toNat / 2 ^ lo % 2 ^ width < 2 ^ width := Nat.mod_lt _ (Nat.two_pow_pos width)
  omega

/-- An unpack answers at most one flag when its third field, and one of its first two, cannot be out of range. -/
theorem unpack_atMostOneFlag (f : Format) (b : Byte) (h2 : optOutOfRange f.field2 b = false)
    (h01 : f.field0.outOfRange b = false ∨ optOutOfRange f.field1 b = false) : (f.unpack b).AtMostOneFlag where
  e2 := h2
  e1_e0 := by
    rcases h01 with h0 | h1
    · exact (congrArg _ h0).trans (Bool.and_false _)
    · exact congrArg (· && f.field0.outOfRange b) h1
  ckm_range := rfl

/-! ### Responses sent since reset -/

theorem State.ResponsesLegal.offer {s : State} {w : Word} (hs : s.ResponsesLegal) (hw : legalResponse w = true) :
    (s.offer w).ResponsesLegal := by
  intro v hv
  rw [State.offer_received, State.offer_responses, ← List.append_assoc, List.mem_append, List.mem_singleton] at hv
  rcases hv with hv | rfl
  · exact hs v hv
  · exact hw

theorem State.ResponsesLegal.respond {s : State} {r : Response} (hs : s.ResponsesLegal) (hr : r.AtMostOneFlag) :
    (s.respond r).ResponsesLegal :=
  hs.offer hr.legalResponse_word

theorem State.ResponsesLegal.takeIllegal {s : State} (hs : s.ResponsesLegal) : s.takeIllegal.ResponsesLegal :=
  State.ResponsesLegal.offer (s := s.raiseIll) hs rfl

theorem State.ResponsesLegal.unpackByte {s : State} (hs : s.ResponsesLegal) {f : Format} {b : Byte}
    (h2 : optOutOfRange f.field2 b = false)
    (h01 : f.field0.outOfRange b = false ∨ optOutOfRange f.field1 b = false) : (unpackByte f b s).ResponsesLegal :=
  State.ResponsesLegal.respond (s := s.raiseErr _) hs (unpack_atMostOneFlag f b h2 h01)

/-- A response handed over stays among the responses sent. -/
theorem State.ResponsesLegal.deliver {s : State} (hs : s.ResponsesLegal) : s.deliver.ResponsesLegal := by
  cases h : s.responses with
  | nil =>
    rw [deliver_nil s h]
    exact hs
  | cons w ws =>
    rw [deliver_cons s w ws h]
    intro v hv
    refine hs v ?_
    rwa [h, ← List.singleton_append, ← List.append_assoc]

/-! ### Every command answers a legal word -/

/-- The third field of LFO and the first field of each format with two fields take all their raw values; the other
formats have one field (`41_unpack.md` R101, R114). -/
theorem exec_unpack_responsesLegal (i : Instr) (hu : isUnpack i = true) (s t : State) (hs : s.ResponsesLegal)
    (h : exec i s = .next t) : t.ResponsesLegal := by
  cases i with
  | unpkCurve | unpkDtrs | unpkSens | unpkOsc | unpkFbks =>
    cases h
    exact hs.unpackByte rfl (.inl (plainField_outOfRange_eq_false _ _ _ _ (by decide) (by decide)))
  | unpkLfo b =>
    cases h
    have hpms := plainField_outOfRange_eq_false 4 3 7 b (by decide) (by decide)
    have hks := plainField_outOfRange_eq_false 0 1 1 b (by decide) (by decide)
    exact hs.unpackByte hpms (.inl hks)
  | unpkAlg | unpkTrn | unpkU99 =>
    cases h
    exact hs.unpackByte rfl (.inr rfl)
  | _ => cases hu

/-- No command answers anything but a legal word (`30_encoding.md` R63). -/
theorem exec_responsesLegal (i : Instr) (s t : State) (hs : s.ResponsesLegal) (h : exec i s = .next t) :
    t.ResponsesLegal := by
  cases i with
  | nop | strd | ctrlrd | unpkSize | packCurve | packDtrs | packSens | packOsc | packLfo | packFbks | packAlg | packTrn
  | packU99 | packSize | ckclr | ckadd | ckrd =>
    cases h
    exact hs.respond (atMostOneFlag_of_lanes _ _ _)
  | ckcmp b =>
    cases h
    exact hs.respond (atMostOneFlag_of_ckm _ _ _)
  | stclr | ctrlwr | bfx | bfi =>
    cases h
    split
    · exact hs.respond (atMostOneFlag_of_lanes _ _ _)
    · exact hs.takeIllegal
  | unpkCurve | unpkDtrs | unpkSens | unpkOsc | unpkLfo | unpkFbks | unpkAlg | unpkTrn | unpkU99 =>
    exact exec_unpack_responsesLegal _ rfl s t hs h

theorem runWord_responsesLegal (c : Word) (s t : State) (hs : s.ResponsesLegal) (h : runWord c s = .next t) :
    t.ResponsesLegal := by
  rcases runWord_cases c s with ⟨i, -, hexec⟩ | ⟨e, -, hill⟩
  · exact exec_responsesLegal i s t hs (hexec ▸ h)
  · cases hill.symm.trans h
    exact hs.takeIllegal

/-- Settles O58, by what a step can do. -/
theorem stepKeepsResponsesLegal : Obligations.StepKeepsResponsesLegal := by
  intro s t hs h
  rcases step_cases s t h with ⟨-, rfl⟩ | ⟨rest, -, rfl⟩ | ⟨rest, -, rfl⟩ | ⟨c, rest, -, hrun⟩
  case inl => exact hs
  case inr.inl => exact State.ResponsesLegal.deliver (s := s.proceed rest) hs
  case inr.inr.inl => exact fun _ hw => absurd hw List.not_mem_nil
  case inr.inr.inr => exact runWord_responsesLegal c (s.proceed rest) t hs hrun

end Sys2Proof.Machine
end

section
/-! The statements of `30_encoding.md` about words: a command is read back from its word (R73), and the decoder is the
search of the table of R70 by match and mask (R71). -/

namespace Sys2Proof

open Machine

/-! ### The parts of a word as numbers (R61, R62) -/

theorem opOf_toNat (c : Word) : (opOf c).toNat = c.toNat / 2 ^ 24 := by
  have := c.isLt
  rw [opOf, BitVec.extractLsb'_toNat, Nat.shiftRight_eq_div_pow]
  omega

theorem lane0_toNat (c : Word) : (lane0 c).toNat = c.toNat % 2 ^ 8 := by
  rw [lane0, BitVec.extractLsb'_toNat, Nat.shiftRight_zero]

theorem positionOf_toNat (c : Word) : (positionOf c).toNat = c.toNat / 2 ^ 8 % 2 ^ 4 := by
  rw [positionOf, BitVec.extractLsb'_toNat, Nat.shiftRight_eq_div_pow]

theorem widthOf_toNat (c : Word) : (widthOf c).toNat = c.toNat / 2 ^ 12 % 2 ^ 4 := by
  rw [widthOf, BitVec.extractLsb'_toNat, Nat.shiftRight_eq_div_pow]

theorem sizeOf14_toNat (c : Word) : (sizeOf14 c).toNat = c.toNat % 2 ^ 14 := by
  rw [sizeOf14, BitVec.extractLsb'_toNat, Nat.shiftRight_zero]

/-- The operand part `cmd[23:0]` of a word, as a number. -/
def operandNumber (c : Word) : Nat := c.toNat % 2 ^ 24

theorem operandNumber_lt (c : Word) : operandNumber c < 2 ^ 24 := Nat.mod_lt _ (Nat.two_pow_pos 24)

theorem operandNumber_append (op : Byte) (x : BitVec 24) : operandNumber (op ++ x) = x.toNat := by
  rw [operandNumber, append_toNat, Nat.mul_add_mod_self_right, Nat.mod_eq_of_lt x.isLt]

theorem zero_append_toNat {n m : Nat} (x : BitVec m) : (0#n ++ x).toNat = x.toNat := by
  rw [append_toNat, BitVec.toNat_ofNat, Nat.zero_mod, Nat.zero_mul, Nat.zero_add]

/-- The bits of the operand part from `lo` on are 0 exactly when its number is below `2 ^ lo`. -/
theorem extract_beq_zero (c : Word) (lo len : Nat) (h : lo + len = 24) :
    (c.extractLsb' lo len == 0#len) = decide (operandNumber c < 2 ^ lo) := by
  have hdiv : c.toNat / 2 ^ lo % 2 ^ len = operandNumber c / 2 ^ lo := by
    rw [operandNumber, ← h, Nat.pow_add, Nat.mod_mul_right_div_self]
  rw [Bool.eq_iff_iff, beq_iff_eq, decide_eq_true_iff, ← BitVec.toNat_inj, BitVec.extractLsb'_toNat,
    Nat.shiftRight_eq_div_pow, BitVec.toNat_ofNat, Nat.zero_mod, hdiv,
    Nat.div_eq_zero_iff_lt (Nat.two_pow_pos lo)]

/-- Two words agree when their opcodes and their operand parts do. -/
theorem eq_append_of_operandNumber {c : Word} {op : Byte} {x : BitVec 24} (hop : opOf c = op)
    (hx : operandNumber c = x.toNat) : op ++ x = c := by
  apply BitVec.eq_of_toNat_eq
  rw [append_toNat, ← hop, opOf_toNat, ← hx, operandNumber]
  omega

/-! ### The must-be-0 bits of the formats, as bounds on the operand part -/

theorem requireZero_of_lt {n m : Nat} (h : n < m) (i : Instr) : requireZero (decide (n < m)) i = .ok i := by
  rw [requireZero, decide_eq_true h]
  rfl

theorem formatZ_eq (c : Word) (i : Instr) : formatZ c i = requireZero (decide (operandNumber c < 2 ^ 0)) i := by
  rw [formatZ, extract_beq_zero c 0 24 rfl]

theorem formatB_eq (c : Word) (build : Byte → Instr) :
    formatB c build = requireZero (decide (operandNumber c < 2 ^ 8)) (build (lane0 c)) := by
  rw [formatB, extract_beq_zero c 8 16 rfl]

theorem formatBelow_eq (c : Word) (k : Nat) (build : Byte → Instr) (hk : k ≤ 8) :
    formatBelow c (2 ^ k) build = requireZero (decide (operandNumber c < 2 ^ k)) (build (lane0 c)) := by
  have hpow : 2 ^ k ≤ 2 ^ 8 := Nat.pow_le_pow_right (by decide) hk
  rw [formatBelow, extract_beq_zero c 8 16 rfl, ← Bool.decide_and, lane0_toNat, operandNumber]
  congr 2
  rw [eq_iff_iff]
  omega

theorem formatBB_eq (c : Word) (build : Byte → Byte → Instr) :
    formatBB c build = requireZero (decide (operandNumber c < 2 ^ 16)) (build (lane0 c) (lane1 c)) := by
  rw [formatBB, lane2, extract_beq_zero c 16 8 rfl]

/-- Format BBB has no must-be-0 bit: its bound holds of every word. -/
theorem formatBBB_eq (c : Word) (build : Byte → Byte → Byte → Instr) :
    formatBBB c build = requireZero (decide (operandNumber c < 2 ^ 24)) (build (lane0 c) (lane1 c) (lane2 c)) :=
  (requireZero_of_lt (operandNumber_lt c) _).symm

theorem formatS_eq (c : Word) (build : BitVec 14 → Instr) :
    formatS c build = requireZero (decide (operandNumber c < 2 ^ 14)) (build (sizeOf14 c)) := by
  rw [formatS, extract_beq_zero c 14 10 rfl]

theorem formatX_eq (c : Word) (build : Byte → BitVec 4 → BitVec 4 → Instr) :
    formatX c build = if operandNumber c < 2 ^ 16 then requireGeometry c (build (lane0 c) (positionOf c) (widthOf c))
      else .error .reservedBit := by
  rw [formatX, lane2, extract_beq_zero c 16 8 rfl]
  simp only [decide_eq_true_iff]

/-- Format I has no must-be-0 bit either. -/
theorem formatI_eq (c : Word) (build : Byte → BitVec 4 → BitVec 4 → Byte → Instr) :
    formatI c build = if operandNumber c < 2 ^ 24 then
      requireGeometry c (build (lane0 c) (positionOf c) (widthOf c) (lane2 c)) else .error .reservedBit :=
  (if_pos (operandNumber_lt c)).symm

/-! ### From a command to its word and back -/

/-- In formats X and I the width and the position make up lane 1 (`30_encoding.md` R62). -/
theorem fieldOperands_eq (f2 f0 : Byte) (w lo : BitVec 4) : f2 ++ w ++ lo ++ f0 = f2 ++ (w ++ lo : Byte) ++ f0 := by
  apply BitVec.eq_of_toNat_eq
  simp only [append_toNat]
  omega

theorem positionOf_append (op f2 f0 : Byte) (w lo : BitVec 4) : positionOf (op ++ (f2 ++ w ++ lo ++ f0)) = lo := by
  apply BitVec.eq_of_toNat_eq
  simp only [positionOf_toNat, append_toNat]
  omega

theorem widthOf_append (op f2 f0 : Byte) (w lo : BitVec 4) : widthOf (op ++ (f2 ++ w ++ lo ++ f0)) = w := by
  apply BitVec.eq_of_toNat_eq
  simp only [widthOf_toNat, append_toNat]
  omega

theorem sizeOf14_append (op : Byte) (size : BitVec 14) : sizeOf14 (op ++ (0#10 ++ size)) = size := by
  apply BitVec.eq_of_toNat_eq
  simp only [sizeOf14_toNat, append_toNat]
  omega

theorem formatZ_append (op : Byte) (i : Instr) : formatZ (op ++ 0#24) i = .ok i := by
  rw [formatZ_eq, requireZero_of_lt]
  rw [operandNumber_append]
  decide

/-- The byte of STCLR and CTRLWR is read back when it is below the bound. -/
theorem formatBelow_append (op b : Byte) (k : Nat) (build : Byte → Instr) (hk : k ≤ 8) (hb : b.toNat < 2 ^ k) :
    formatBelow (op ++ (0#16 ++ b)) (2 ^ k) build = .ok (build b) := by
  have hlane : lane0 (op ++ (0#16 ++ b)) = b := lane0_append op 0#8 0#8 b
  rw [formatBelow_eq _ k _ hk, requireZero_of_lt, hlane]
  rwa [operandNumber_append, zero_append_toNat]

theorem formatBB_append (op f1 f0 : Byte) (build : Byte → Byte → Instr) :
    formatBB (op ++ (0#8 ++ f1 ++ f0)) build = .ok (build f0 f1) := by
  rw [formatBB, requireZero, lane0_append, lane1_append, lane2_append]
  rfl

theorem formatBBB_append (op f2 f1 f0 : Byte) (build : Byte → Byte → Byte → Instr) :
    formatBBB (op ++ (f2 ++ f1 ++ f0)) build = .ok (build f0 f1 f2) := by
  rw [formatBBB, lane0_append, lane1_append, lane2_append]

theorem formatS_append (op : Byte) (size : BitVec 14) (build : BitVec 14 → Instr) :
    formatS (op ++ (0#10 ++ size)) build = .ok (build size) := by
  rw [formatS_eq, requireZero_of_lt, sizeOf14_append]
  rw [operandNumber_append, zero_append_toNat]
  exact size.isLt

theorem formatI_append (op f2 f0 : Byte) (w lo : BitVec 4) (build : Byte → BitVec 4 → BitVec 4 → Byte → Instr)
    (hg : legalGeometry lo w = true) : formatI (op ++ (f2 ++ w ++ lo ++ f0)) build = .ok (build f0 lo w f2) := by
  rw [formatI, requireGeometry, positionOf_append, widthOf_append, if_pos hg, fieldOperands_eq, lane0_append,
    lane2_append]

theorem formatX_append (op f0 : Byte) (w lo : BitVec 4) (build : Byte → BitVec 4 → BitVec 4 → Instr)
    (hg : legalGeometry lo w = true) : formatX (op ++ (0#8 ++ w ++ lo ++ f0)) build = .ok (build f0 lo w) := by
  rw [formatX, requireGeometry, positionOf_append, widthOf_append, if_pos hg, fieldOperands_eq, lane0_append,
    lane2_append]
  rfl

/-- Settles O10, format by format: the opcode selects the format's check, which hands back the operands. -/
theorem decodeOfEncode : Obligations.DecodeOfEncode := by
  intro i hwf
  rw [decode, opOf_encode]
  cases i with
  | nop | strd | ctrlrd | ckclr | ckrd => exact formatZ_append _ _
  | stclr mask => exact formatBelow_append _ _ 3 _ (by decide) (of_decide_eq_true hwf)
  | ctrlwr value => exact formatBelow_append _ _ 1 _ (by decide) (of_decide_eq_true hwf)
  | bfx byte lo w => exact formatX_append _ _ _ _ _ (wellFormed_bfx byte lo w ▸ hwf)
  | bfi base lo w v => exact formatI_append _ _ _ _ _ _ (wellFormed_bfi base v lo w ▸ hwf)
  | unpkCurve | unpkDtrs | unpkSens | unpkOsc | unpkLfo | unpkFbks | unpkAlg | unpkTrn | unpkU99 | packAlg | packTrn
  | packU99 | ckadd | ckcmp => exact formatB_append _ _ _
  | unpkSize | packCurve | packDtrs | packSens | packOsc | packFbks => exact formatBB_append _ _ _ _
  | packLfo => exact formatBBB_append _ _ _ _ _
  | packSize => exact formatS_append _ _ _

/-! ### The masks -/

/-- The mask of the table that keeps the bits of a word from `n` on. -/
def highMask (n : Nat) : Word := BitVec.allOnes 32 <<< n

theorem and_highMask_toNat (c : Word) (n : Nat) : (c &&& highMask n).toNat = c.toNat / 2 ^ n * 2 ^ n := by
  have hle : c.toNat / 2 ^ n * 2 ^ n < 2 ^ 32 := (Nat.div_mul_le_self _ _).trans_lt c.isLt
  rw [highMask, ← BitVec.shiftLeft_ushiftRight, BitVec.toNat_shiftLeft, BitVec.toNat_ushiftRight, Nat.shiftLeft_eq,
    Nat.shiftRight_eq_div_pow, Nat.mod_eq_of_lt hle]

/-- A word matches in the bits from `n` on exactly when it has the opcode and its operand part is below `2 ^ n`. -/
theorem and_highMask_eq_iff (c : Word) (op : Byte) (n : Nat) (hn : n ≤ 24) :
    c &&& highMask n = op ++ 0#24 ↔ opOf c = op ∧ operandNumber c < 2 ^ n := by
  have hsplit : c.toNat / 2 ^ n * 2 ^ n + c.toNat % 2 ^ n = c.toNat := Nat.div_add_mod' _ _
  have hlow : c.toNat % 2 ^ n < 2 ^ n := Nat.mod_lt _ (Nat.two_pow_pos n)
  have hpow : 2 ^ n ≤ 2 ^ 24 := Nat.pow_le_pow_right (by decide) hn
  have hmod : c.toNat % 2 ^ 24 % 2 ^ n = c.toNat % 2 ^ n := Nat.mod_mod_of_dvd _ (Nat.pow_dvd_pow 2 hn)
  rw [← BitVec.toNat_inj, ← BitVec.toNat_inj (x := opOf c), and_highMask_toNat, append_toNat, opOf_toNat, operandNumber,
    BitVec.toNat_ofNat]
  constructor
  · omega
  · rintro ⟨hop, hlt⟩
    rw [Nat.mod_eq_of_lt hlt] at hmod
    omega

/-- The one mask bit below the others in the rows of BFX and BFI is bit 11, the high bit of the position. -/
theorem and_bit11_eq_zero (c : Word) (h : c.toNat / 2 ^ 11 % 2 = 0) : c &&& 0x800#32 = 0#32 := by
  have hbit : c.toNat.testBit 11 = false := by
    rw [Nat.testBit_eq_decide_div_mod_eq, h]
    rfl
  apply BitVec.eq_of_toNat_eq
  rw [BitVec.toNat_and]
  exact (Nat.and_two_pow c.toNat 11).trans (by rw [hbit]; rfl)

/-- A legal position is at most 7 (`40_generic_bitfield.md` R91). -/
theorem and_bit11_eq_zero_of_legalGeometry (c : Word) (h : legalGeometry (positionOf c) (widthOf c) = true) :
    c &&& 0x800#32 = 0#32 := by
  obtain ⟨hlo, -⟩ := (legalGeometry_iff _ _).1 h
  rw [positionOf_toNat] at hlo
  exact and_bit11_eq_zero c (by omega)

/-- Matching a pattern in two masks at once, of which the second is where the pattern is 0. -/
theorem and_or_eq_iff (c a b p : Word) (hp : p &&& b = 0#32) : c &&& (a ||| b) = p ↔ c &&& a = p ∧ c &&& b = 0#32 := by
  constructor
  · rintro rfl
    rw [BitVec.and_assoc, show (a ||| b) &&& b = b by ext; simp +contextual] at hp
    rw [BitVec.and_or_distrib_left, hp, BitVec.or_zero]
    exact ⟨rfl, rfl⟩
  · rintro ⟨ha, hb⟩
    rw [BitVec.and_or_distrib_left, ha, hb, BitVec.or_zero]

/-! ### The rows of the table -/

/-- A well-formed command has a legal geometry where it has one at all (`40_generic_bitfield.md` R91). -/
theorem geometryOk_of_wellFormed (i : Instr) (h : i.wellFormed = true) : geometryOk i = true := by
  cases i with
  | bfx byte lo w => exact (wellFormed_bfx byte lo w).symm.trans h
  | bfi base lo w v => exact (wellFormed_bfi base v lo w).symm.trans h
  | _ => rfl

/-- A row tells what the decoder does with every word of its opcode: it accepts the words that fit the row and have a
legal geometry, and reads them as the one command whose word they are (`30_encoding.md` R71, R73). -/
structure TableRow.Faithful (r : TableRow) : Prop where
  opcode_of_fits : ∀ c, r.fits c = true → opOf c = opOf r.pattern
  decode_eq : ∀ c, opOf c = opOf r.pattern →
    (decode c).toOption = if r.fits c && geometryOk (r.build c) then some (r.build c) else none
  encode_build : ∀ c, r.fits c = true → geometryOk (r.build c) = true →
    (r.build c).wellFormed = true ∧ encode (r.build c) = c

/-- A row whose mask is all the bits from `n` on, as in every format but X and I. -/
theorem faithful_of_requireZero (op : Byte) (n : Nat) (build : Word → Instr) (hn : n ≤ 24)
    (hdecode : ∀ c, opOf c = op → decode c = requireZero (decide (operandNumber c < 2 ^ n)) (build c))
    (hencode : ∀ c, opOf c = op → operandNumber c < 2 ^ n →
      (build c).wellFormed = true ∧ encode (build c) = c) :
    TableRow.Faithful ⟨op ++ 0#24, highMask n, build⟩ := by
  have hfits (c : Word) : TableRow.fits ⟨op ++ 0#24, highMask n, build⟩ c = true ↔
      opOf c = op ∧ operandNumber c < 2 ^ n :=
    beq_iff_eq.trans (and_highMask_eq_iff c op n hn)
  refine ⟨fun c h => ?_, fun c hop => ?_, fun c h _ => ?_⟩
  · rw [opOf_append, ((hfits c).1 h).1]
  · rw [opOf_append] at hop
    rw [hdecode c hop, requireZero]
    by_cases hlt : operandNumber c < 2 ^ n
    · have hgeometry := geometryOk_of_wellFormed _ (hencode c hop hlt).1
      rw [(hfits c).2 ⟨hop, hlt⟩, hgeometry, decide_eq_true hlt]
      rfl
    · have hmiss : TableRow.fits ⟨op ++ 0#24, highMask n, build⟩ c = false :=
        Bool.eq_false_iff.2 fun h => hlt ((hfits c).1 h).2
      rw [hmiss, decide_eq_false hlt]
      rfl
  · obtain ⟨hop, hlt⟩ := (hfits c).1 h
    exact hencode c hop hlt

/-- A row of format X or I: its mask has bit 11 too, which a legal geometry leaves 0 (`40_generic_bitfield.md` R91). -/
theorem faithful_of_requireGeometry (op : Byte) (n : Nat) (build : Word → Instr) (hn : n ≤ 24)
    (hdecode : ∀ c, opOf c = op →
      decode c = if operandNumber c < 2 ^ n then requireGeometry c (build c) else .error .reservedBit)
    (hgeometry : ∀ c, geometryOk (build c) = legalGeometry (positionOf c) (widthOf c))
    (hencode : ∀ c, opOf c = op → operandNumber c < 2 ^ n →
      (build c).wellFormed = geometryOk (build c) ∧ encode (build c) = c) :
    TableRow.Faithful ⟨op ++ 0#24, highMask n ||| 0x800#32, build⟩ := by
  have hbit11 : (op ++ 0#24) &&& 0x800#32 = 0#32 := by
    apply and_bit11_eq_zero
    rw [append_toNat, BitVec.toNat_ofNat]
    omega
  have hfits (c : Word) : TableRow.fits ⟨op ++ 0#24, highMask n ||| 0x800#32, build⟩ c = true ↔
      (opOf c = op ∧ operandNumber c < 2 ^ n) ∧ c &&& 0x800#32 = 0#32 := by
    rw [TableRow.fits, beq_iff_eq, and_or_eq_iff _ _ _ _ hbit11, and_highMask_eq_iff c op n hn]
  refine ⟨fun c h => ?_, fun c hop => ?_, fun c h hg => ?_⟩
  · rw [opOf_append, ((hfits c).1 h).1.1]
  · rw [opOf_append] at hop
    rw [hdecode c hop, requireGeometry, hgeometry]
    by_cases hg : legalGeometry (positionOf c) (widthOf c) = true
    · simp only [hg, Bool.and_true, hfits, hop, true_and, and_bit11_eq_zero_of_legalGeometry c hg, and_true, if_true]
      split <;> rfl
    · simp only [hg, Bool.and_false]
      split <;> rfl
  · obtain ⟨⟨hop, hlt⟩, -⟩ := (hfits c).1 h
    obtain ⟨hwf, henc⟩ := hencode c hop hlt
    exact ⟨hwf.trans hg, henc⟩

/-! ### The rows by format (R62) -/

theorem operandNumber_eq_of_lt_byte (c : Word) (h : operandNumber c < 2 ^ 8) :
    operandNumber c = (0#16 ++ lane0 c : BitVec 24).toNat := by
  rw [zero_append_toNat, lane0_toNat]
  rw [operandNumber] at h ⊢
  omega

theorem operandNumber_eq_of_lt_size (c : Word) (h : operandNumber c < 2 ^ 14) :
    operandNumber c = (0#10 ++ sizeOf14 c : BitVec 24).toNat := by
  rw [zero_append_toNat, sizeOf14_toNat]
  rw [operandNumber] at h ⊢
  omega

theorem operandNumber_eq_lanes (c : Word) : operandNumber c = (lane2 c ++ lane1 c ++ lane0 c).toNat := by
  conv_lhs => rw [word_eq_append c, operandNumber_append]

theorem lane2_eq_zero_of_lt (c : Word) (h : operandNumber c < 2 ^ 16) : lane2 c = 0#8 := by
  have h0 := extract_beq_zero c 16 8 rfl
  rw [decide_eq_true h] at h0
  exact eq_of_beq h0

/-- The row of a command of format Z; the same for the other formats below. -/
theorem faithful_formatZ (op : Byte) (i : Instr) (hdecode : ∀ c, opOf c = op → decode c = formatZ c i)
    (hwf : i.wellFormed = true) (hencode : encode i = op ++ 0#24) :
    TableRow.Faithful ⟨op ++ 0#24, 0xFFFFFFFF#32, fun _ => i⟩ :=
  faithful_of_requireZero op 0 _ (by decide) (fun c hop => (hdecode c hop).trans (formatZ_eq c i))
    fun _ hop hlt => ⟨hwf, hencode.trans (eq_append_of_operandNumber hop (Nat.lt_one_iff.1 hlt))⟩

theorem faithful_formatB (op : Byte) (build : Byte → Instr) (hdecode : ∀ c, opOf c = op → decode c = formatB c build)
    (hwf : ∀ b, (build b).wellFormed = true) (hencode : ∀ b, encode (build b) = op ++ (0#16 ++ b)) :
    TableRow.Faithful ⟨op ++ 0#24, 0xFFFFFF00#32, fun c => build (lane0 c)⟩ :=
  faithful_of_requireZero op 8 _ (by decide) (fun c hop => (hdecode c hop).trans (formatB_eq c build)) fun c hop hlt =>
      ⟨hwf _, (hencode _).trans (eq_append_of_operandNumber hop (operandNumber_eq_of_lt_byte c hlt))⟩

theorem faithful_formatBelow (op : Byte) (k : Nat) (build : Byte → Instr) (hk : k ≤ 8)
    (hdecode : ∀ c, opOf c = op → decode c = formatBelow c (2 ^ k) build)
    (hwf : ∀ b, (build b).wellFormed = decide (b.toNat < 2 ^ k))
    (hencode : ∀ b, encode (build b) = op ++ (0#16 ++ b)) :
    TableRow.Faithful ⟨op ++ 0#24, highMask k, fun c => build (lane0 c)⟩ := by
  refine faithful_of_requireZero op k _ (by omega) (fun c hop => (hdecode c hop).trans (formatBelow_eq c k build hk))
    fun c hop hlt => ?_
  have hpow : 2 ^ k ≤ 2 ^ 8 := Nat.pow_le_pow_right (by decide) hk
  have hbyte := operandNumber_eq_of_lt_byte c (hlt.trans_le hpow)
  refine ⟨?_, (hencode _).trans (eq_append_of_operandNumber hop hbyte)⟩
  rw [zero_append_toNat] at hbyte
  rw [hwf, ← hbyte, decide_eq_true hlt]

theorem faithful_formatBB (op : Byte) (build : Byte → Byte → Instr)
    (hdecode : ∀ c, opOf c = op → decode c = formatBB c build)
    (hwf : ∀ f0 f1, (build f0 f1).wellFormed = true)
    (hencode : ∀ f0 f1, encode (build f0 f1) = op ++ (0#8 ++ f1 ++ f0)) :
    TableRow.Faithful ⟨op ++ 0#24, 0xFFFF0000#32, fun c => build (lane0 c) (lane1 c)⟩ := by
  refine faithful_of_requireZero op 16 _ (by decide) (fun c hop => (hdecode c hop).trans (formatBB_eq c build))
    fun c hop hlt => ⟨hwf _ _, (hencode _ _).trans (eq_append_of_operandNumber hop ?_)⟩
  rw [operandNumber_eq_lanes, lane2_eq_zero_of_lt c hlt]

theorem faithful_formatBBB (op : Byte) (build : Byte → Byte → Byte → Instr)
    (hdecode : ∀ c, opOf c = op → decode c = formatBBB c build)
    (hwf : ∀ f0 f1 f2, (build f0 f1 f2).wellFormed = true)
    (hencode : ∀ f0 f1 f2, encode (build f0 f1 f2) = op ++ (f2 ++ f1 ++ f0)) :
    TableRow.Faithful ⟨op ++ 0#24, 0xFF000000#32, fun c => build (lane0 c) (lane1 c) (lane2 c)⟩ :=
  faithful_of_requireZero op 24 _ (by decide) (fun c hop => (hdecode c hop).trans (formatBBB_eq c build)) fun c hop _ =>
      ⟨hwf _ _ _, (hencode _ _ _).trans (eq_append_of_operandNumber hop (operandNumber_eq_lanes c))⟩

theorem faithful_formatS (op : Byte) (build : BitVec 14 → Instr)
    (hdecode : ∀ c, opOf c = op → decode c = formatS c build)
    (hwf : ∀ size, (build size).wellFormed = true)
    (hencode : ∀ size, encode (build size) = op ++ (0#10 ++ size)) :
    TableRow.Faithful ⟨op ++ 0#24, 0xFFFFC000#32, fun c => build (sizeOf14 c)⟩ :=
  faithful_of_requireZero op 14 _ (by decide) (fun c hop => (hdecode c hop).trans (formatS_eq c build)) fun c hop hlt =>
      ⟨hwf _, (hencode _).trans (eq_append_of_operandNumber hop (operandNumber_eq_of_lt_size c hlt))⟩

/-! The two rows with a geometry, formats X and I. -/

/-- The operand part of a word read as format I, and as format X when lane 2 is 0. -/
theorem operandNumber_eq_fieldOperands (c : Word) :
    operandNumber c = (lane2 c ++ widthOf c ++ positionOf c ++ lane0 c).toNat := by
  rw [fieldOperands_eq, ← lane1_eq_append]
  exact operandNumber_eq_lanes c

theorem faithful_bfx : TableRow.Faithful
    ⟨0x08000000#32, 0xFFFF0800#32, fun c => .bfx (lane0 c) (positionOf c) (widthOf c)⟩ := by
  refine faithful_of_requireGeometry 0x08#8 16 _ (by decide) (fun c hop => ?_) (fun _ => rfl) fun c hop hlt =>
    ⟨wellFormed_bfx _ _ _, eq_append_of_operandNumber (x := operands (.bfx _ _ _)) hop ?_⟩
  · rw [decode, hop]
    exact formatX_eq c .bfx
  · rw [operandNumber_eq_fieldOperands, lane2_eq_zero_of_lt c hlt]
    rfl

theorem faithful_bfi : TableRow.Faithful
    ⟨0x09000000#32, 0xFF000800#32, fun c => .bfi (lane0 c) (positionOf c) (widthOf c) (lane2 c)⟩ := by
  refine faithful_of_requireGeometry 0x09#8 24 _ (by decide) (fun c hop => ?_) (fun _ => rfl) fun c hop _ =>
    ⟨wellFormed_bfi _ _ _ _, eq_append_of_operandNumber hop (operandNumber_eq_fieldOperands c)⟩
  rw [decode, hop]
  exact formatI_eq c .bfi

/-- All 31 rows, in the table's order. -/
theorem faithful_of_mem : ∀ r ∈ tableRows, r.Faithful := by
  simp only [tableRows, List.cons_append, List.nil_append, List.forall_mem_cons]
  refine ⟨faithful_formatZ 0x00 .nop ?_ rfl rfl,
    faithful_formatZ 0x01 .strd ?_ rfl rfl,
    faithful_formatBelow 0x02 3 .stclr (by decide) ?_ (fun _ => rfl) fun _ => rfl,
    faithful_formatZ 0x03 .ctrlrd ?_ rfl rfl,
    faithful_formatBelow 0x04 1 .ctrlwr (by decide) ?_ (fun _ => rfl) fun _ => rfl,
    faithful_bfx,
    faithful_bfi,
    faithful_formatB 0x10 .unpkCurve ?_ (fun _ => rfl) fun _ => rfl,
    faithful_formatB 0x11 .unpkDtrs ?_ (fun _ => rfl) fun _ => rfl,
    faithful_formatB 0x12 .unpkSens ?_ (fun _ => rfl) fun _ => rfl,
    faithful_formatB 0x13 .unpkOsc ?_ (fun _ => rfl) fun _ => rfl,
    faithful_formatB 0x14 .unpkLfo ?_ (fun _ => rfl) fun _ => rfl,
    faithful_formatB 0x15 .unpkFbks ?_ (fun _ => rfl) fun _ => rfl,
    faithful_formatB 0x16 .unpkAlg ?_ (fun _ => rfl) fun _ => rfl,
    faithful_formatB 0x17 .unpkTrn ?_ (fun _ => rfl) fun _ => rfl,
    faithful_formatB 0x18 .unpkU99 ?_ (fun _ => rfl) fun _ => rfl,
    faithful_formatBB 0x19 .unpkSize ?_ (fun _ _ => rfl) fun _ _ => rfl,
    faithful_formatBB 0x20 .packCurve ?_ (fun _ _ => rfl) fun _ _ => rfl,
    faithful_formatBB 0x21 .packDtrs ?_ (fun _ _ => rfl) fun _ _ => rfl,
    faithful_formatBB 0x22 .packSens ?_ (fun _ _ => rfl) fun _ _ => rfl,
    faithful_formatBB 0x23 .packOsc ?_ (fun _ _ => rfl) fun _ _ => rfl,
    faithful_formatBBB 0x24 .packLfo ?_ (fun _ _ _ => rfl) fun _ _ _ => rfl,
    faithful_formatBB 0x25 .packFbks ?_ (fun _ _ => rfl) fun _ _ => rfl,
    faithful_formatB 0x26 .packAlg ?_ (fun _ => rfl) fun _ => rfl,
    faithful_formatB 0x27 .packTrn ?_ (fun _ => rfl) fun _ => rfl,
    faithful_formatB 0x28 .packU99 ?_ (fun _ => rfl) fun _ => rfl,
    faithful_formatS 0x29 .packSize ?_ (fun _ => rfl) fun _ => rfl,
    faithful_formatZ 0x30 .ckclr ?_ rfl rfl,
    faithful_formatB 0x31 .ckadd ?_ (fun _ => rfl) fun _ => rfl,
    faithful_formatZ 0x32 .ckrd ?_ rfl rfl,
    faithful_formatB 0x33 .ckcmp ?_ (fun _ => rfl) fun _ => rfl,
    fun _ h => absurd h List.not_mem_nil⟩
  all_goals
    intro c hop
    rw [decode, hop]
    rfl

/-- The opcodes of the table of R70. -/
def tableOpcodes : List Byte := tableRows.map fun r => opOf r.pattern

theorem tableOpcodes_toNat : tableOpcodes.map BitVec.toNat =
    [0x00, 0x01, 0x02, 0x03, 0x04, 0x08, 0x09, 0x10, 0x11, 0x12, 0x13, 0x14, 0x15, 0x16, 0x17, 0x18, 0x19, 0x20, 0x21,
      0x22, 0x23, 0x24, 0x25, 0x26, 0x27, 0x28, 0x29, 0x30, 0x31, 0x32, 0x33] := rfl

/-- An opcode that is not in the table is reserved (`30_encoding.md` R72). -/
theorem decode_of_not_mem_tableOpcodes (c : Word) (h : opOf c ∉ tableOpcodes) :
    decode c = .error .reservedOpcode := by
  have hnumber : (opOf c).toNat ∉ tableOpcodes.map BitVec.toNat :=
    (List.mem_map_of_injective fun _ _ => BitVec.eq_of_toNat_eq).not.2 h
  rw [tableOpcodes_toNat] at hnumber
  rw [decode]
  split
  case h_32 => rfl
  all_goals
    rename_i hop
    rw [hop] at hnumber
    exact absurd (by decide) hnumber

/-- A word of an opcode in the table has a row that tells how it is decoded. -/
theorem exists_faithful_of_mem_tableOpcodes (c : Word) (h : opOf c ∈ tableOpcodes) :
    ∃ r ∈ tableRows, r.Faithful ∧ opOf c = opOf r.pattern := by
  obtain ⟨r, hr, hop⟩ := List.mem_map.1 h
  exact ⟨r, hr, faithful_of_mem r hr, hop.symm⟩

/-! ### From a word to its command and back -/

/-- A word that decodes to a command fits a row that builds this command. -/
theorem exists_row_of_decode_eq_ok {c : Word} {i : Instr} (h : decode c = .ok i) :
    ∃ r ∈ tableRows, r.Faithful ∧ r.fits c = true ∧ geometryOk i = true ∧ r.build c = i := by
  by_cases hmem : opOf c ∈ tableOpcodes
  · obtain ⟨r, hr, hfaithful, hop⟩ := exists_faithful_of_mem_tableOpcodes c hmem
    have hrow := hfaithful.decode_eq c hop
    rw [h] at hrow
    obtain ⟨hfits, hbuild⟩ := Option.ite_none_right_eq_some.1 hrow.symm
    obtain ⟨hfits, hgeometry⟩ := Bool.and_eq_true_iff.1 hfits
    cases hbuild
    exact ⟨r, hr, hfaithful, hfits, hgeometry, rfl⟩
  · rw [decode_of_not_mem_tableOpcodes c hmem] at h
    cases h

/-- Settles O11: the row that the word fits builds its command, and that command's word is this one. -/
theorem encodeOfDecode : Obligations.EncodeOfDecode := by
  intro c i h
  obtain ⟨r, -, hfaithful, hfits, hgeometry, rfl⟩ := exists_row_of_decode_eq_ok h
  exact hfaithful.encode_build c hfits hgeometry

/-! ### The search of the table (R71) -/

/-- No two rows have one opcode, so at most one row fits a word. -/
theorem filter_fits_length_le_one (c : Word) : (tableRows.filter fun r => r.fits c).length ≤ 1 := by
  have hnodup : tableOpcodes.Nodup := by
    apply List.Nodup.of_map BitVec.toNat
    rw [tableOpcodes_toNat]
    decide
  have hsub : ((tableRows.filter fun r => r.fits c).map fun r => opOf r.pattern).Nodup :=
    hnodup.sublist (List.filter_sublist.map _)
  have hsame : ∀ r ∈ tableRows.filter (fun r => r.fits c), opOf r.pattern = opOf c := by
    intro r hr
    obtain ⟨hmem, hfits⟩ := List.mem_filter.1 hr
    exact ((faithful_of_mem r hmem).opcode_of_fits c hfits).symm
  rw [List.map_eq_replicate_iff.2 hsame] at hsub
  exact List.nodup_replicate.1 hsub

theorem toOption_decode_eq_none (c : Word) (h : ∀ r ∈ tableRows, r.fits c = false) : (decode c).toOption = none := by
  cases hd : decode c with
  | error e => rfl
  | ok i =>
    obtain ⟨r, hr, -, hfits, -⟩ := exists_row_of_decode_eq_ok hd
    exact absurd hfits (Bool.eq_false_iff.1 (h r hr))

theorem toOption_decode_eq_decodeByTable (c : Word) : (decode c).toOption = decodeByTable c := by
  rw [decodeByTable]
  split
  case h_1 hnil =>
    refine toOption_decode_eq_none c fun r hr => ?_
    exact Bool.eq_false_iff.2 (List.filter_eq_nil_iff.1 hnil r hr)
  case h_2 r rs hcons =>
    obtain ⟨hr, hfits⟩ := List.mem_filter.1 (hcons ▸ List.mem_cons_self : r ∈ tableRows.filter fun r => r.fits c)
    have hfaithful := faithful_of_mem r hr
    rw [hfaithful.decode_eq c (hfaithful.opcode_of_fits c hfits), hfits, Bool.true_and]

/-- Settles O12: the row that the search finds tells how the word is decoded. -/
theorem decodeIsTheTableSearch : Obligations.DecodeIsTheTableSearch := fun c =>
  ⟨toOption_decode_eq_decodeByTable c, filter_fits_length_le_one c⟩

/-! ### Reserved opcodes (R72) -/

/-- The five ranges of R72. -/
def ReservedOpcode (op : Nat) : Prop :=
  0x05 ≤ op ∧ op ≤ 0x07 ∨ 0x0A ≤ op ∧ op ≤ 0x0F ∨ 0x1A ≤ op ∧ op ≤ 0x1F ∨ 0x2A ≤ op ∧ op ≤ 0x2F ∨ 0x34 ≤ op

/-- No row of the table has an opcode in them. -/
theorem not_mem_tableOpcodes_of_reserved (op : Byte) (h : ReservedOpcode op.toNat) : op ∉ tableOpcodes := by
  have hfree : ∀ n ∈ tableOpcodes.map BitVec.toNat, ¬ ReservedOpcode n := by
    rw [tableOpcodes_toNat]
    unfold ReservedOpcode
    decide
  exact fun hmem => hfree _ (List.mem_map_of_mem hmem) h

/-- Settles O5: the decoder rejects a word whose opcode has no row, and the step then takes the illegal outcome. -/
theorem reservedOpcodesAreIllegal : Obligations.ReservedOpcodesAreIllegal := by
  refine ⟨rfl, fun s c rest hp hop => ?_⟩
  have hreserved : ReservedOpcode (opOf c).toNat := by rwa [opOf_toNat]
  have hdecode := decode_of_not_mem_tableOpcodes c (not_mem_tableOpcodes_of_reserved _ hreserved)
  rw [step_of_command s c rest hp, runWord, hdecode]
  rfl

end Sys2Proof
end

section
/-! The statements of `40_generic_bitfield.md`: the words and the results of BFX and BFI, and the laws of the field
primitives they use. -/

namespace Sys2Proof

open Machine

/-! ### The laws of `ext` and `ins` (R94), bit by bit -/

/-- Extracting the field just inserted gives the low `w` bits of the value. -/
theorem ext_ins_same (b v : Byte) (lo w : Nat) (h : lo + w ≤ 8) : ext (ins b lo w v) lo w = ext v 0 w := by
  apply BitVec.eq_of_getLsbD_eq
  intro i _
  rw [ext_getLsbD _ _ _ _ (by omega), ext_getLsbD _ _ _ _ (by omega), ins_getLsbD _ _ _ _ _ h]
  by_cases hi : i < w
  · rw [if_pos (by omega), Nat.add_sub_cancel_left, Nat.zero_add]
  · rw [decide_eq_false hi, Bool.false_and, Bool.false_and]

/-- Inserting what the field already holds changes nothing. -/
theorem ins_ext_same (b : Byte) (lo w : Nat) (h : lo + w ≤ 8) : ins b lo w (ext b lo w) = b := by
  apply BitVec.eq_of_getLsbD_eq
  intro i _
  rw [ins_getLsbD _ _ _ _ _ h, ext_getLsbD _ _ _ _ (by omega)]
  by_cases hi : lo ≤ i ∧ i < lo + w
  · rw [if_pos hi, decide_eq_true (by omega), Bool.true_and, Nat.add_sub_cancel' hi.1]
  · rw [if_neg hi]

/-- An insert leaves the fields that do not overlap its own as they were. -/
theorem ext_ins_of_disjoint (b v : Byte) (lo w lo2 w2 : Nat) (h : lo + w ≤ 8) (h2 : w2 ≤ 8)
    (hdisjoint : lo + w ≤ lo2 ∨ lo2 + w2 ≤ lo) : ext (ins b lo w v) lo2 w2 = ext b lo2 w2 := by
  apply BitVec.eq_of_getLsbD_eq
  intro i _
  rw [ext_getLsbD _ _ _ _ h2, ext_getLsbD _ _ _ _ h2, ins_getLsbD _ _ _ _ _ h]
  by_cases hi : i < w2
  · rw [if_neg (by omega)]
  · rw [decide_eq_false hi, Bool.false_and, Bool.false_and]

/-- Settles O20: the three laws of R94. -/
theorem extractAndInsertLaws : Obligations.ExtractAndInsertLaws := by
  rintro b v lo w ⟨-, -, hw, hsum⟩
  refine ⟨?_, ins_ext_same b lo w hsum, fun lo2 w2 ⟨_, _, hw2, _⟩ hdisjoint =>
    ext_ins_of_disjoint b v lo w lo2 w2 hsum hw2 hdisjoint⟩
  rw [ext_ins_same b v lo w hsum, ext_toNat v 0 w hw, Nat.pow_zero, Nat.div_one]

/-! ### Words of formats X and I (R91) -/

/-- The word of a command with a field geometry, part by part. -/
theorem append_fieldOperands (op f2 f0 : Byte) (w lo : BitVec 4) :
    (op ++ (f2 ++ w ++ lo ++ f0) : Word) = op ++ f2 ++ w ++ lo ++ f0 := by
  apply BitVec.eq_of_toNat_eq
  simp only [append_toNat]
  omega

theorem requireGeometry_of_legalField (c : Word) (i : Instr)
    (h : LegalField (positionOf c).toNat (widthOf c).toNat) : requireGeometry c i = .ok i :=
  if_pos ((legalGeometry_iff _ _).2 h)

theorem requireGeometry_of_not_legalField (c : Word) (i : Instr)
    (h : ¬LegalField (positionOf c).toNat (widthOf c).toNat) : requireGeometry c i = .error .geometry :=
  if_neg fun hg => h ((legalGeometry_iff _ _).1 hg)

/-- A word of opcode 0x08 is read in format X. -/
theorem decode_of_opOf_bfx (c : Word) (hop : opOf c = 0x08#8) : decode c = formatX c .bfx := by
  rw [decode, hop]
  rfl

/-- A word of opcode 0x09 is read in format I. -/
theorem decode_of_opOf_bfi (c : Word) (hop : opOf c = 0x09#8) : decode c = formatI c .bfi := by
  rw [decode, hop]
  rfl

/-- Format X accepts a word whose lane 2 is 0 and whose geometry is legal. -/
theorem formatX_of_legal (c : Word) (build : Byte → BitVec 4 → BitVec 4 → Instr) (hzero : lane2 c = 0#8)
    (hfield : LegalField (positionOf c).toNat (widthOf c).toNat) :
    formatX c build = .ok (build (lane0 c) (positionOf c) (widthOf c)) := by
  rw [formatX, if_pos (beq_iff_eq.2 hzero), requireGeometry_of_legalField c _ hfield]

/-- Format X accepts no other word. -/
theorem formatX_of_not_legal (c : Word) (build : Byte → BitVec 4 → BitVec 4 → Instr)
    (h : ¬(lane2 c = 0#8 ∧ LegalField (positionOf c).toNat (widthOf c).toNat)) :
    ∃ e, formatX c build = .error e := by
  rw [formatX]
  by_cases hzero : lane2 c = 0#8
  · rw [if_pos (beq_iff_eq.2 hzero)]
    exact ⟨.geometry, requireGeometry_of_not_legalField c _ fun hfield => h ⟨hzero, hfield⟩⟩
  · rw [if_neg fun hbeq => hzero (beq_iff_eq.1 hbeq)]
    exact ⟨.reservedBit, rfl⟩

/-! ### Results of the commands with a field geometry -/

/-- A response of one byte and no flag, as the number of the statements. -/
theorem respond_byte_eq (b : Byte) (s : State) : s.respond { r0 := b } = s.answering (wordOf b.toNat) := by
  rw [respond_eq, response_word_eq_wordOf]
  rfl

theorem execBfx_of_legalField (b : Byte) (lo w : BitVec 4) (s : State) (h : LegalField lo.toNat w.toNat) :
    execBfx b lo w s = .next (s.answering (wordOf (b.toNat / 2 ^ lo.toNat % 2 ^ w.toNat))) := by
  have ⟨_, _, hw, _⟩ := h
  rw [execBfx, if_pos ((legalGeometry_iff lo w).2 h), respond_byte_eq, ext_toNat b _ _ hw]

theorem execBfx_of_not_legalField (b : Byte) (lo w : BitVec 4) (s : State) (h : ¬LegalField lo.toNat w.toNat) :
    execBfx b lo w s = .next s.illegalAfter := by
  rw [execBfx, if_neg fun hg => h ((legalGeometry_iff lo w).1 hg), takeIllegal_eq]

theorem execBfi_of_legalField (b v : Byte) (lo w : BitVec 4) (s : State) (h : LegalField lo.toNat w.toNat) :
    execBfi b lo w v s = .next (s.answering (wordOf
      (b.toNat % 2 ^ lo.toNat + 2 ^ lo.toNat * (v.toNat % 2 ^ w.toNat) +
        2 ^ (lo.toNat + w.toNat) * (b.toNat / 2 ^ (lo.toNat + w.toNat))))) := by
  have ⟨_, _, _, hsum⟩ := h
  rw [execBfi, if_pos ((legalGeometry_iff lo w).2 h), respond_byte_eq, ins_toNat b v _ _ hsum]

theorem execBfi_of_not_legalField (b v : Byte) (lo w : BitVec 4) (s : State) (h : ¬LegalField lo.toNat w.toNat) :
    execBfi b lo w v s = .next s.illegalAfter := by
  rw [execBfi, if_neg fun hg => h ((legalGeometry_iff lo w).1 hg), takeIllegal_eq]

/-! ### BFX and BFI -/

/-- Settles O18: the word of BFX, which words format X accepts, and the field it answers (R92). -/
theorem bfxExtractsTheField : Obligations.BfxExtractsTheField := by
  refine ⟨fun b lo w => append_fieldOperands 0x08#8 0#8 b w lo, fun c hop => ?_, fun b lo w s =>
    ⟨execBfx_of_legalField b lo w s, execBfx_of_not_legalField b lo w s⟩⟩
  rw [decode_of_opOf_bfx c hop]
  exact ⟨fun ⟨hzero, hfield⟩ => formatX_of_legal c .bfx hzero hfield, formatX_of_not_legal c .bfx⟩

/-- Settles O19: the word of BFI, which has no must-be-0 bit, and the byte with its field replaced (R93). -/
theorem bfiInsertsTheField : Obligations.BfiInsertsTheField := by
  refine ⟨fun b v lo w => append_fieldOperands 0x09#8 v b w lo, fun c hop => ?_, fun b v lo w s =>
    ⟨execBfi_of_legalField b v lo w s, execBfi_of_not_legalField b v lo w s⟩⟩
  rw [decode_of_opOf_bfi c hop]
  exact ⟨requireGeometry_of_legalField c _, fun h => ⟨.geometry, requireGeometry_of_not_legalField c _ h⟩⟩

end Sys2Proof
end

section
/-! The statements of `41_unpack.md`: the words of the nine unpack commands, the lanes and flags they answer, field by
field, and the bits of a byte that no field covers. -/

namespace Sys2Proof

open Machine

/-! ### Words of format B (R62) -/

/-- The word of a command with one byte operand, part by part. -/
theorem append_byteOperand (op b : Byte) : (op ++ (0#16 ++ b) : Word) = op ++ 0#16 ++ b := by
  apply BitVec.eq_of_toNat_eq
  simp only [append_toNat]
  omega

/-- A command whose words the decoder reads in format B. -/
theorem decodesB_of_formatB {op : Byte} {make : Byte → Instr}
    (hdecode : ∀ c, opOf c = op → decode c = formatB c make)
    (hencode : ∀ b, encode (make b) = op ++ (0#16 ++ b)) : DecodesB op make := by
  refine ⟨fun b => (hencode b).trans (append_byteOperand op b), fun c hop => ?_⟩
  rw [hdecode c hop]
  exact ⟨fun hzero => if_pos (beq_iff_eq.2 hzero), fun hzero => if_neg fun hbeq => hzero (beq_iff_eq.1 hbeq)⟩

/-! ### What a field answers, as numbers (R103) -/

/-- The lane of the response that belongs to the field is `n`, and its range flag is `e`. -/
structure Answers (f : Option Field) (b : Byte) (n : Nat) (e : Bool) : Prop where
  lane_eq : (optLane f b).toNat = n
  flag_eq : optOutOfRange f b = e

/-- A lane that the format does not use is 0, with no flag. -/
theorem answers_none (b : Byte) : Answers none b 0 false := ⟨rfl, rfl⟩

/-- Clamping, as the nearest bound. -/
theorem clamp_eq_max_min (v lo hi : Int) (h : lo ≤ hi) : clamp v lo hi = max lo (min v hi) := by
  unfold clamp
  split
  · omega
  · split <;> omega

theorem tc8_toNat (i : Int) : (tc8 i).toNat = (i % 256).toNat := BitVec.toNat_ofInt i

/-- Any field: its raw value plus the bias is `v`; that is clamped, answered in two's complement, and flagged when
outside the range. -/
theorem answers_field {lo width : Nat} {bias min' max' : Int} {signed : Bool} {b : Byte} {v : Int} (hw : width ≤ 8)
    (hrange : min' ≤ max') (hv : ((b.toNat / 2 ^ lo % 2 ^ width : Nat) : Int) + bias = v) :
    Answers (some ⟨lo, width, bias, min', max', signed⟩) b (max min' (min v max') % 256).toNat
      (decide (v < min') || decide (max' < v)) := by
  constructor
  · rw [optLane, Field.lane, tc8_toNat, Field.value, clamp_eq_max_min _ _ _ hrange, Field.internal, zext8, Field.raw,
      ext_toNat b lo width hw, hv]
  · rw [optOutOfRange, Bool.eq_iff_iff, outOfRange_iff _ _ _ _ _ _ _ hw, hv, Bool.or_eq_true, decide_eq_true_iff,
      decide_eq_true_iff]

/-- An unsigned field without bias: its raw value `n`, cut off at the largest legal value. -/
theorem answers_plainField {lo width n : Nat} (max' : Nat) {b : Byte} (hw : width ≤ 8) (hmax : max' < 256)
    (hn : b.toNat / 2 ^ lo % 2 ^ width = n) :
    Answers (some (plainField lo width max')) b (min n max') (decide (max' < n)) := by
  have hfield := answers_field (bias := 0) (signed := false) (v := n) hw (Int.natCast_nonneg max')
    (by rw [hn, Int.add_zero])
  have hlane : (max 0 (min (n : Int) max') % 256).toNat = min n max' := by omega
  have hflag : (decide ((n : Int) < 0) || decide ((max' : Int) < n)) = decide (max' < n) := by
    rw [Bool.eq_iff_iff, Bool.or_eq_true, decide_eq_true_iff, decide_eq_true_iff, decide_eq_true_iff]
    omega
  rwa [hlane, hflag] at hfield

/-- Of an unsigned field whose every raw value is legal, the raw value is answered and no flag. -/
theorem answers_fullField {lo width n : Nat} (max' : Nat) {b : Byte} (hw : width ≤ 8) (hmax : max' < 256)
    (hfull : 2 ^ width ≤ max' + 1) (hn : b.toNat / 2 ^ lo % 2 ^ width = n) :
    Answers (some (plainField lo width max')) b n false := by
  have hlt : n < 2 ^ width := hn ▸ Nat.mod_lt _ (Nat.two_pow_pos width)
  have hfield := answers_plainField max' hw hmax hn
  rwa [Nat.min_eq_left (by omega), decide_eq_false (by omega)] at hfield

/-! ### What an unpack answers, from its fields (R100, R103) -/

/-- The response is the lanes and flags of the three fields, and STATUS.ERR is raised by any of the flags. -/
theorem unpackByte_of_answers (f : Format) {b : Byte} {r0 r1 r2 : Nat} {e0 e1 e2 : Bool}
    (h0 : Answers (some f.field0) b r0 e0) (h1 : Answers f.field1 b r1 e1) (h2 : Answers f.field2 b r2 e2)
    (s : State) :
    unpackByte f b s = (s.raiseErr (e0 || e1 || e2)).answering (wordOf r0 r1 r2 e0 e1 e2) := by
  obtain ⟨rfl, rfl⟩ := h0
  obtain ⟨rfl, rfl⟩ := h1
  obtain ⟨rfl, rfl⟩ := h2
  rw [unpackByte_eq_raiseErr, respond_eq, response_word_eq_wordOf]
  rfl

/-- Only the field of lane 0 can be out of range. -/
theorem unpackByte_of_flag0 (f : Format) {b : Byte} {r0 r1 r2 : Nat} {e0 : Bool}
    (h0 : Answers (some f.field0) b r0 e0) (h1 : Answers f.field1 b r1 false) (h2 : Answers f.field2 b r2 false)
    (s : State) : unpackByte f b s = (s.raiseErr e0).answering (wordOf r0 r1 r2 (e0 := e0)) := by
  rw [unpackByte_of_answers f h0 h1 h2, Bool.or_false, Bool.or_false]

/-- Only the field of lane 1 can be out of range. -/
theorem unpackByte_of_flag1 (f : Format) {b : Byte} {r0 r1 r2 : Nat} {e1 : Bool}
    (h0 : Answers (some f.field0) b r0 false) (h1 : Answers f.field1 b r1 e1) (h2 : Answers f.field2 b r2 false)
    (s : State) : unpackByte f b s = (s.raiseErr e1).answering (wordOf r0 r1 r2 (e1 := e1)) := by
  rw [unpackByte_of_answers f h0 h1 h2, Bool.false_or, Bool.or_false]

/-- No field can be out of range. -/
theorem unpackByte_of_inRange (f : Format) {b : Byte} {r0 r1 r2 : Nat} (h0 : Answers (some f.field0) b r0 false)
    (h1 : Answers f.field1 b r1 false) (h2 : Answers f.field2 b r2 false) (s : State) :
    unpackByte f b s = s.answering (wordOf r0 r1 r2) := by
  rw [unpackByte_of_flag0 f h0 h1 h2, State.raiseErr_false]

/-! ### The nine commands -/

/-- CURVE for a given value of `CURVE_LEFT_HIGH`. -/
theorem unpackByte_curveFormat (leftHigh : Bool) (b : Byte) (s : State) :
    unpackByte (curveFormat leftHigh) b s = s.answering
      (if leftHigh then wordOf (r0 := b.toNat % 4) (r1 := b.toNat / 4 % 4)
        else wordOf (r0 := b.toNat / 4 % 4) (r1 := b.toNat % 4)) := by
  have hlow : Answers (some (plainField 0 2 3)) b (b.toNat % 4) false :=
    answers_fullField 3 (by decide) (by decide) (by decide) (by omega)
  have hhigh : Answers (some (plainField 2 2 3)) b (b.toNat / 4 % 4) false :=
    answers_fullField 3 (by decide) (by decide) (by decide) (by omega)
  cases leftHigh with
  | true =>
    rw [if_pos rfl]
    exact unpackByte_of_inRange (curveFormat true) hlow hhigh (answers_none b) s
  | false =>
    rw [if_neg Bool.false_ne_true]
    exact unpackByte_of_inRange (curveFormat false) hhigh hlow (answers_none b) s

/-- Settles O21: both curve fields hold every 2-bit value, whichever lane each is answered in (R104). -/
theorem unpackCurve : Obligations.UnpackCurve := by
  refine ⟨decodesB_of_formatB (fun c hop => by rw [decode, hop]; rfl) fun _ => rfl, fun b s => ?_⟩
  exact congrArg Host.Outcome.next (unpackByte_curveFormat Config.curveLeftHigh b s)

/-- Settles O22: rate scaling is never out of range, so the detune alone is flagged (R105). -/
theorem unpackDetuneAndRateScaling : Obligations.UnpackDetuneAndRateScaling := by
  refine ⟨decodesB_of_formatB (fun c hop => by rw [decode, hop]; rfl) fun _ => rfl, fun b s => ?_⟩
  have hscaling : Answers (some dtrsFormat.field0) b (b.toNat % 8) false :=
    answers_fullField 7 (by decide) (by decide) (by decide) (by omega)
  have hdetune := answers_field (lo := 3) (width := 4) (bias := -7) (min' := -7) (max' := 7) (signed := true) (b := b)
    (v := (b.toNat / 8 % 16 : Nat) - 7) (by decide) (by decide) (by omega)
  exact congrArg Host.Outcome.next (unpackByte_of_flag1 dtrsFormat hscaling hdetune (answers_none b) s)

/-- Settles O23: the amplitude-mod sensitivity is never out of range, the velocity sensitivity is when above 7 (R106). -/
theorem unpackSensitivities : Obligations.UnpackSensitivities := by
  refine ⟨decodesB_of_formatB (fun c hop => by rw [decode, hop]; rfl) fun _ => rfl, fun b s => ?_⟩
  have hams : Answers (some sensFormat.field0) b (b.toNat % 4) false :=
    answers_fullField 3 (by decide) (by decide) (by decide) (by omega)
  have hvs : Answers sensFormat.field1 b (min (b.toNat / 4) 7) (7 < b.toNat / 4) :=
    answers_plainField 7 (by decide) (by decide) (by omega)
  exact congrArg Host.Outcome.next (unpackByte_of_flag1 sensFormat hams hvs (answers_none b) s)

/-- Settles O24: the mode is never out of range, coarse is when above 31 (R107). -/
theorem unpackOscillator : Obligations.UnpackOscillator := by
  refine ⟨decodesB_of_formatB (fun c hop => by rw [decode, hop]; rfl) fun _ => rfl, fun b s => ?_⟩
  have hmode : Answers (some oscFormat.field0) b (b.toNat % 2) false :=
    answers_fullField 1 (by decide) (by decide) (by decide) (by omega)
  have hcoarse : Answers oscFormat.field1 b (min (b.toNat / 2) 31) (31 < b.toNat / 2) :=
    answers_plainField 31 (by decide) (by decide) (by omega)
  exact congrArg Host.Outcome.next (unpackByte_of_flag1 oscFormat hmode hcoarse (answers_none b) s)

/-- Settles O25: of the three fields only the waveform can be out of range (R108). -/
theorem unpackLfo : Obligations.UnpackLfo := by
  refine ⟨decodesB_of_formatB (fun c hop => by rw [decode, hop]; rfl) fun _ => rfl, fun b s => ?_⟩
  have hsync : Answers (some lfoFormat.field0) b (b.toNat % 2) false :=
    answers_fullField 1 (by decide) (by decide) (by decide) (by omega)
  have hwave : Answers lfoFormat.field1 b (min (b.toNat / 2 % 8) 5) (5 < b.toNat / 2 % 8) :=
    answers_plainField 5 (by decide) (by decide) (by omega)
  have hpms : Answers lfoFormat.field2 b (b.toNat / 16 % 8) false :=
    answers_fullField 7 (by decide) (by decide) (by decide) (by omega)
  exact congrArg Host.Outcome.next (unpackByte_of_flag1 lfoFormat hsync hwave hpms s)

/-- Settles O26: both fields hold every value of their width (R109). -/
theorem unpackFeedback : Obligations.UnpackFeedback := by
  refine ⟨decodesB_of_formatB (fun c hop => by rw [decode, hop]; rfl) fun _ => rfl, fun b s => ?_⟩
  have hfeedback : Answers (some fbksFormat.field0) b (b.toNat % 8) false :=
    answers_fullField 7 (by decide) (by decide) (by decide) (by omega)
  have hsync : Answers fbksFormat.field1 b (b.toNat / 8 % 2) false :=
    answers_fullField 1 (by decide) (by decide) (by decide) (by omega)
  exact congrArg Host.Outcome.next (unpackByte_of_inRange fbksFormat hfeedback hsync (answers_none b) s)

/-- The algorithm id of a byte is one of 1 to 32, so it is neither clamped nor flagged. -/
theorem answers_algorithm (b : Byte) : Answers (some algFormat.field0) b (b.toNat % 32 + 1) false := by
  have hid := answers_field (lo := 0) (width := 5) (bias := 1) (min' := 1) (max' := 32) (signed := false) (b := b)
    (v := (b.toNat % 32 : Nat) + 1) (by decide) (by decide) (by omega)
  have hlane : (max 1 (min (((b.toNat % 32 : Nat) : Int) + 1) 32) % 256).toNat = b.toNat % 32 + 1 := by omega
  rwa [hlane, decide_eq_false (by omega), decide_eq_false (by omega)] at hid

/-- Settles O27: every 5-bit value gives a legal id (R110). -/
theorem unpackAlgorithm : Obligations.UnpackAlgorithm := by
  refine ⟨decodesB_of_formatB (fun c hop => by rw [decode, hop]; rfl) fun _ => rfl, fun b s => ?_⟩
  exact congrArg Host.Outcome.next
    (unpackByte_of_inRange algFormat (answers_algorithm b) (answers_none b) (answers_none b) s)

/-- Settles O28: the one field is the whole byte, less 24 (R111). -/
theorem unpackTranspose : Obligations.UnpackTranspose := by
  refine ⟨decodesB_of_formatB (fun c hop => by rw [decode, hop]; rfl) fun _ => rfl, fun b s => ?_⟩
  have htranspose := answers_field (lo := 0) (width := 8) (bias := -24) (min' := -24) (max' := 24) (signed := true)
    (b := b) (v := (b.toNat : Int) - 24) (by decide) (by decide) (by omega)
  exact congrArg Host.Outcome.next (unpackByte_of_flag0 trnFormat htranspose (answers_none b) (answers_none b) s)

/-- Settles O29: the one field is the whole byte, legal up to 99 (R112). -/
theorem unpackPlainByte : Obligations.UnpackPlainByte := by
  refine ⟨decodesB_of_formatB (fun c hop => by rw [decode, hop]; rfl) fun _ => rfl, fun b s => ?_⟩
  have hbyte : Answers (some u99Format.field0) b (min b.toNat 99) (99 < b.toNat) :=
    answers_plainField 99 (by decide) (by decide) (by omega)
  exact congrArg Host.Outcome.next (unpackByte_of_flag0 u99Format hbyte (answers_none b) (answers_none b) s)

/-! ### Bits that no field covers (R102) -/

/-- A field below bit `k` reads nothing of the bits from `k` on. -/
theorem ext_congr_of_lowBits {b b' : Byte} {k lo w : Nat} (hk : k ≤ 8) (h : lo + w ≤ k)
    (hlow : b &&& onesMask k = b' &&& onesMask k) : ext b lo w = ext b' lo w := by
  apply BitVec.eq_of_getLsbD_eq
  intro i _
  rw [ext_getLsbD _ _ _ _ (by omega), ext_getLsbD _ _ _ _ (by omega)]
  by_cases hi : i < w
  · have hbit := congrArg (BitVec.getLsbD · (lo + i)) hlow
    simp only [BitVec.getLsbD_and, onesMask_getLsbD k _ hk, decide_eq_true (show lo + i < k by omega),
      Bool.and_true] at hbit
    rw [hbit]
  · rw [decide_eq_false hi, Bool.false_and, Bool.false_and]

/-- A lane and its flag depend on the byte only through the field's raw value. -/
theorem optLane_optOutOfRange_congr {f : Option Field} {b b' : Byte} (h : ∀ g ∈ f, g.raw b = g.raw b') :
    optLane f b = optLane f b' ∧ optOutOfRange f b = optOutOfRange f b' := by
  cases f with
  | none => exact ⟨rfl, rfl⟩
  | some g =>
    have hinternal : g.internal b = g.internal b' := by rw [Field.internal, h g rfl, Field.internal]
    exact ⟨congrArg (fun v => tc8 (clamp v g.min g.max)) hinternal, congrArg (oor · g.min g.max) hinternal⟩

/-- The fields of a format, in lane order. -/
def Machine.Format.fields (f : Format) : List Field := f.field0 :: (f.field1.toList ++ f.field2.toList)

/-- An unpack depends on the byte only through the raw values of the format's fields. -/
theorem unpackByte_congr {f : Format} {b b' : Byte} (h : ∀ g ∈ f.fields, g.raw b = g.raw b') (s : State) :
    unpackByte f b s = unpackByte f b' s := by
  obtain ⟨hlane0, hflag0⟩ := optLane_optOutOfRange_congr (f := some f.field0) (b := b) (b' := b') fun g hg =>
    h g (by simp [Format.fields, Option.mem_some.1 hg])
  obtain ⟨hlane1, hflag1⟩ := optLane_optOutOfRange_congr (f := f.field1) (b := b) (b' := b') fun g hg =>
    h g (by simp [Format.fields, Option.mem_def.1 hg])
  obtain ⟨hlane2, hflag2⟩ := optLane_optOutOfRange_congr (f := f.field2) (b := b) (b' := b') fun g hg =>
    h g (by simp [Format.fields, Option.mem_def.1 hg])
  have hunpack : f.unpack b = f.unpack b' := by
    have hvalue0 : f.field0.lane b = f.field0.lane b' := hlane0
    have hrange0 : f.field0.outOfRange b = f.field0.outOfRange b' := hflag0
    rw [Format.unpack, Format.unpack, hvalue0, hlane1, hlane2, hrange0, hflag1, hflag2]
  rw [unpackByte, hunpack, unpackByte]

/-- With every field below bit `k`, an unpack reads nothing of the bits from `k` on. -/
theorem unpackByte_congr_of_lowBits (f : Format) (k : Nat) {b b' : Byte} (hk : k ≤ 8)
    (hbelow : ∀ g ∈ f.fields, g.lo + g.width ≤ k) (hlow : b &&& onesMask k = b' &&& onesMask k) (s : State) :
    unpackByte f b s = unpackByte f b' s :=
  unpackByte_congr (fun g hg => ext_congr_of_lowBits hk (hbelow g hg) hlow) s

/-- The curve fields lie below bit 4 for either value of `CURVE_LEFT_HIGH`. -/
theorem curveFormat_below_four (leftHigh : Bool) : ∀ g ∈ (curveFormat leftHigh).fields, g.lo + g.width ≤ 4 := by
  cases leftHigh <;> decide

/-- Settles O30: each of the five formats has all its fields below the bits it does not cover. -/
theorem uncoveredBitsAreIgnored : Obligations.UncoveredBitsAreIgnored := by
  intro b b' s
  refine ⟨fun h => congrArg Host.Outcome.next ?_, fun h => congrArg Host.Outcome.next ?_,
    fun h => congrArg Host.Outcome.next ?_, fun h => congrArg Host.Outcome.next ?_,
    fun h => congrArg Host.Outcome.next ?_⟩
  · exact unpackByte_congr_of_lowBits _ 4 (by decide) (curveFormat_below_four Config.curveLeftHigh) h s
  · exact unpackByte_congr_of_lowBits dtrsFormat 7 (by decide) (by decide) h s
  · exact unpackByte_congr_of_lowBits lfoFormat 7 (by decide) (by decide) h s
  · exact unpackByte_congr_of_lowBits fbksFormat 4 (by decide) (by decide) h s
  · exact unpackByte_congr_of_lowBits algFormat 5 (by decide) (by decide) h s

end Sys2Proof
end

section
/-! The statements of `42_pack.md`: the words and results of the nine pack commands, and that pack and unpack are
inverse. A format is treated as three fields that do not overlap, an unused lane as a field of no bits. -/

namespace Sys2Proof

open Machine

/-! ### Words of format BB (R62) -/

/-- The word of a command with its operands in byte lanes, part by part. -/
theorem append_byteLanes (op f2 f1 f0 : Byte) : (op ++ (f2 ++ f1 ++ f0) : Word) = op ++ f2 ++ f1 ++ f0 := by
  apply BitVec.eq_of_toNat_eq
  simp only [append_toNat]
  omega

/-- A command whose words the decoder reads in format BB. -/
theorem decodesBB_of_formatBB {op : Byte} {make : Byte → Byte → Instr}
    (hdecode : ∀ c, opOf c = op → decode c = formatBB c make)
    (hencode : ∀ f0 f1, encode (make f0 f1) = op ++ (0#8 ++ f1 ++ f0)) : DecodesBB op make := by
  refine ⟨fun f0 f1 => (hencode f0 f1).trans (append_byteLanes op 0#8 f1 f0), fun c hop => ?_⟩
  rw [hdecode c hop]
  exact ⟨fun hzero => if_pos (beq_iff_eq.2 hzero), fun hzero => if_neg fun hbeq => hzero (beq_iff_eq.1 hbeq)⟩

/-! ### One field of a byte -/

/-- Two fields with no bit in common. -/
abbrev Machine.Field.Disjoint (g h : Field) : Prop := g.lo + g.width ≤ h.lo ∨ h.lo + h.width ≤ g.lo

/-- The field lies inside the byte, every value of its range has a raw value, and the lane can hold that value. -/
abbrev Machine.Field.Fits (g : Field) : Prop :=
  g.lo + g.width ≤ 8 ∧ g.min ≤ g.max ∧ g.bias ≤ g.min ∧ g.max - g.bias < (2 ^ g.width : Nat) ∧
    if g.signed then -128 ≤ g.min ∧ g.max ≤ 127 else 0 ≤ g.min ∧ g.max ≤ 255

/-- The operand on a pack command's lane is in the field's range. -/
def Machine.Field.InRange (g : Field) (lane : Byte) : Prop := g.min ≤ g.operand lane ∧ g.operand lane ≤ g.max

/-- The bits of the field. -/
def Machine.Field.mask (g : Field) : Byte := onesMask g.width <<< g.lo

/-- The byte `acc` with the raw value `x` in the field. -/
def Machine.Field.insert (g : Field) (x acc : Byte) : Byte := ins acc g.lo g.width x

/-- The raw value a pack command makes of its lane: the bias removed, modulo the field's width (R130). -/
def Machine.Field.encode (g : Field) (lane : Byte) : Byte := BitVec.ofInt 8 ((g.operand lane - g.bias) % 2 ^ g.width)

theorem place_eq_insert_encode (g : Field) (lane acc : Byte) : g.place lane acc = g.insert (g.encode lane) acc := rfl

theorem two_pow_le_byte {w : Nat} (hw : w ≤ 8) : 2 ^ w ≤ 256 := Nat.pow_le_pow_right (by decide) hw

theorem raw_lt (g : Field) (b : Byte) (hfits : g.Fits) : (g.raw b).toNat < 2 ^ g.width := by
  rw [Field.raw, ext_toNat _ _ _ (by omega)]
  exact Nat.mod_lt _ (Nat.two_pow_pos _)

/-- The raw value as a number: the remainder does not exceed the byte. -/
theorem encode_toNat (g : Field) (lane : Byte) (hw : g.width ≤ 8) :
    ((g.encode lane).toNat : Int) = (g.operand lane - g.bias) % (2 ^ g.width : Nat) := by
  have hpos : (0 : Int) < (2 ^ g.width : Nat) := Int.natCast_pos.2 (Nat.two_pow_pos _)
  have hnonneg := Int.emod_nonneg (g.operand lane - g.bias) hpos.ne'
  have hlt := Int.emod_lt_of_pos (g.operand lane - g.bias) hpos
  have hbyte := two_pow_le_byte hw
  have hencode : g.encode lane = BitVec.ofInt 8 ((g.operand lane - g.bias) % (2 ^ g.width : Nat)) := by
    rw [Field.encode, Nat.cast_pow, Nat.cast_ofNat]
  rw [hencode, BitVec.toNat_ofInt, Int.emod_eq_of_lt hnonneg (by omega)]
  omega

theorem encode_lt (g : Field) (lane : Byte) (hfits : g.Fits) : (g.encode lane).toNat < 2 ^ g.width := by
  have hlt := Int.emod_lt_of_pos (g.operand lane - g.bias) (Int.natCast_pos.2 (Nat.two_pow_pos g.width))
  rw [← encode_toNat g lane (by omega)] at hlt
  exact Int.ofNat_lt.1 hlt

/-- Reading a field back after its own insert. -/
theorem raw_insert_same (g : Field) (x acc : Byte) (hbyte : g.lo + g.width ≤ 8) (hx : x.toNat < 2 ^ g.width) :
    g.raw (g.insert x acc) = x := by
  rw [Field.raw, Field.insert, ext_ins_same _ _ _ _ hbyte]
  apply BitVec.eq_of_toNat_eq
  rw [ext_toNat _ _ _ (by omega), Nat.pow_zero, Nat.div_one, Nat.mod_eq_of_lt hx]

/-- Reading a field back after an insert of another one. -/
theorem raw_insert_of_disjoint {g h : Field} (x acc : Byte) (hg : g.lo + g.width ≤ 8) (hh : h.lo + h.width ≤ 8)
    (hdisjoint : g.Disjoint h) : g.raw (h.insert x acc) = g.raw acc :=
  ext_ins_of_disjoint acc x h.lo h.width g.lo g.width hh (by omega) hdisjoint.symm

/-- Inserting into a field whose bits are 0 adds its share to the byte. -/
theorem insert_toNat (g : Field) (x acc : Byte) (hbyte : g.lo + g.width ≤ 8) (hx : x.toNat < 2 ^ g.width)
    (hzero : g.raw acc = 0#8) : (g.insert x acc).toNat = acc.toNat + 2 ^ g.lo * x.toNat := by
  have hfield : acc.toNat / 2 ^ g.lo % 2 ^ g.width = 0 := by
    rw [← ext_toNat acc g.lo g.width (by omega)]
    exact congrArg BitVec.toNat hzero
  have hlow := Nat.mod_add_div acc.toNat (2 ^ g.lo)
  have hhigh := Nat.mod_add_div (acc.toNat / 2 ^ g.lo) (2 ^ g.width)
  rw [hfield, Nat.zero_add, Nat.div_div_eq_div_mul, ← Nat.pow_add] at hhigh
  rw [← hhigh, ← Nat.mul_assoc, ← Nat.pow_add] at hlow
  rw [Field.insert, ins_toNat _ _ _ _ hbyte, Nat.mod_eq_of_lt hx]
  omega

/-- Inserting a byte's own field into the part of the byte under a mask widens the mask by the field. -/
theorem insert_raw_and (g : Field) (b m : Byte) (hbyte : g.lo + g.width ≤ 8) :
    g.insert (g.raw b) (b &&& m) = b &&& (m ||| g.mask) := by
  apply BitVec.eq_of_getLsbD_eq
  intro i hi
  rw [Field.insert, Field.raw, Field.mask, ins_getLsbD _ _ _ _ _ hbyte, ext_getLsbD _ _ _ _ (by omega),
    BitVec.getLsbD_and, BitVec.getLsbD_and, BitVec.getLsbD_or, BitVec.getLsbD_shiftLeft,
    onesMask_getLsbD _ _ (by omega)]
  by_cases hfield : g.lo ≤ i ∧ i < g.lo + g.width
  · obtain ⟨hlo, hhi⟩ := hfield
    simp [hlo, hhi, hi, show i - g.lo < g.width by omega]
  · rw [if_neg hfield]
    by_cases hlo : i < g.lo
    · simp [hlo]
    · simp [show ¬i - g.lo < g.width by omega]

/-! ### Lanes as values (R65, R222) -/

/-- Reading a lane as a number and writing it back. -/
theorem tc8_operand (g : Field) (lane : Byte) : tc8 (g.operand lane) = lane := by
  unfold Field.operand
  split
  · exact BitVec.ofInt_toInt
  · rw [zext8, tc8, BitVec.ofInt_natCast, BitVec.ofNat_toNat, BitVec.setWidth_eq]

/-- Writing a value of the field's range into a lane and reading it back. -/
theorem operand_tc8 (g : Field) (v : Int) (hfits : g.Fits) (hmin : g.min ≤ v) (hmax : v ≤ g.max) :
    g.operand (tc8 v) = v := by
  obtain ⟨-, -, -, -, hlane⟩ := hfits
  unfold Field.operand
  split
  · rename_i hsigned
    rw [if_pos hsigned] at hlane
    rw [sext8, tc8, BitVec.toInt_ofInt, Int.bmod_eq_of_le (by omega) (by omega)]
  · rename_i hsigned
    rw [if_neg hsigned] at hlane
    rw [zext8, tc8_toNat, Int.emod_eq_of_lt (by omega) (by omega)]
    omega

/-- A byte whose raw value encodes an operand in range: the unpack answers the operand's lane and no flag. -/
theorem lane_outOfRange_of_raw_eq (g : Field) {b lane : Byte} (hfits : g.Fits) (hin : g.InRange lane)
    (hraw : g.raw b = g.encode lane) : g.lane b = lane ∧ g.outOfRange b = false := by
  obtain ⟨hbyte, -, hbias, hwidth, -⟩ := hfits
  obtain ⟨hmin, hmax⟩ := hin
  have hinternal : g.internal b = g.operand lane := by
    rw [Field.internal, zext8, hraw, encode_toNat g lane (by omega), Int.emod_eq_of_lt (by omega) (by omega)]
    omega
  have hrange : g.outOfRange b = false := by
    rw [Field.outOfRange, hinternal, oor, decide_eq_false_iff_not]
    omega
  refine ⟨?_, hrange⟩
  rw [Field.lane, Field.value, clamp_of_not_oor _ _ _ hrange, hinternal, tc8_operand]

/-- What an unpack answers of a field is in the field's range. -/
theorem value_mem (g : Field) (b : Byte) (hfits : g.Fits) : g.min ≤ g.value b ∧ g.value b ≤ g.max := by
  obtain ⟨-, hrange, -⟩ := hfits
  exact clamp_mem (g.internal b) g.min g.max hrange

/-- Packing the lane an unpack answers gives the field back exactly when the unpack did not clamp. -/
theorem encode_lane_eq_raw_iff (g : Field) (b : Byte) (hfits : g.Fits) :
    g.encode (g.lane b) = g.raw b ↔ g.outOfRange b = false := by
  obtain ⟨hmin, hmax⟩ := value_mem g b hfits
  have hoperand := operand_tc8 g (g.value b) hfits hmin hmax
  obtain ⟨hbyte, -, hbias, hwidth, -⟩ := hfits
  have hencode : ((g.encode (g.lane b)).toNat : Int) = g.value b - g.bias := by
    rw [encode_toNat g _ (by omega), Field.lane, hoperand, Int.emod_eq_of_lt (by omega) (by omega)]
  have hinternal : ((g.raw b).toNat : Int) = g.internal b - g.bias := (Int.add_sub_cancel _ _).symm
  constructor
  · intro heq
    rw [heq, hinternal] at hencode
    rw [Field.outOfRange, oor, decide_eq_false_iff_not]
    omega
  · intro hflag
    apply BitVec.eq_of_toNat_eq
    have hclamp : g.value b = g.internal b := clamp_of_not_oor _ _ _ hflag
    omega

/-! ### A format as three fields -/

/-- The field of a lane that a format does not use: no bits, and 0 as its only value. -/
def Machine.noField : Field := plainField 0 0 0

/-- The field of lane 1. -/
def Machine.Format.second (f : Format) : Field := f.field1.getD noField

/-- The field of lane 2. -/
def Machine.Format.third (f : Format) : Field := f.field2.getD noField

/-- `noField` stands for an unused lane: nothing is placed, the lane is 0 and never flagged. -/
theorem noField_eq (b lane acc : Byte) :
    noField.place lane acc = acc ∧ noField.lane b = 0#8 ∧ noField.outOfRange b = false := by
  have hraw : noField.internal b = 0 := by
    have hwidth : noField.width = 0 := rfl
    rw [Field.internal, Field.raw, zext8, ext_toNat _ _ _ (by decide), hwidth, Nat.pow_zero, Nat.mod_one]
    rfl
  refine ⟨?_, ?_, ?_⟩
  · apply BitVec.eq_of_getLsbD_eq
    intro i _
    rw [Field.place, ins_getLsbD _ _ _ _ _ (by decide)]
    exact if_neg fun h => absurd h.2 (Nat.not_lt_zero i)
  · rw [Field.lane, Field.value, hraw]
    rfl
  · rw [Field.outOfRange, hraw]
    rfl

theorem optPlace_eq (f : Option Field) (lane acc : Byte) : optPlace f lane acc = (f.getD noField).place lane acc := by
  cases f with
  | none => exact (noField_eq 0 lane acc).1.symm
  | some g => rfl

theorem optLane_eq (f : Option Field) (b : Byte) : optLane f b = (f.getD noField).lane b := by
  cases f with
  | none => exact (noField_eq b 0 0).2.1.symm
  | some g => rfl

theorem optOutOfRange_eq (f : Option Field) (b : Byte) : optOutOfRange f b = (f.getD noField).outOfRange b := by
  cases f with
  | none => exact (noField_eq b 0 0).2.2.symm
  | some g => rfl

/-- Each of the format's fields fits, and no two share a bit. -/
abbrev Machine.Format.Valid (f : Format) : Prop :=
  (f.field0.Fits ∧ f.second.Fits ∧ f.third.Fits) ∧
    f.field0.Disjoint f.second ∧ f.field0.Disjoint f.third ∧ f.second.Disjoint f.third

/-- The bits that the format's fields cover. -/
def Machine.Format.covered (f : Format) : Byte := f.field0.mask ||| f.second.mask ||| f.third.mask

/-- The byte with the given raw values in the format's fields and zeros elsewhere. -/
def Machine.Format.assemble (f : Format) (x0 x1 x2 : Byte) : Byte :=
  f.third.insert x2 (f.second.insert x1 (f.field0.insert x0 0#8))

/-- A pack assembles its encoded lanes. -/
theorem pack_eq_assemble (f : Format) (v0 v1 v2 : Byte) :
    f.pack v0 v1 v2 = f.assemble (f.field0.encode v0) (f.second.encode v1) (f.third.encode v2) := by
  rw [Format.pack, optPlace_eq, optPlace_eq, place_eq_insert_encode, place_eq_insert_encode, place_eq_insert_encode]
  rfl

/-- A byte with its uncovered bits cleared is assembled from its own raw values. -/
theorem and_covered_eq_assemble (f : Format) (hf : f.Valid) (b : Byte) :
    b &&& f.covered = f.assemble (f.field0.raw b) (f.second.raw b) (f.third.raw b) := by
  obtain ⟨⟨hfits0, hfits1, hfits2⟩, -⟩ := hf
  rw [Format.assemble, ← BitVec.and_zero (x := b), insert_raw_and _ _ _ hfits0.1, insert_raw_and _ _ _ hfits1.1,
    insert_raw_and _ _ _ hfits2.1, BitVec.zero_or, Format.covered]

section Assembled

variable (f : Format) (hf : f.Valid) {x0 x1 x2 : Byte} (h0 : x0.toNat < 2 ^ f.field0.width)
  (h1 : x1.toNat < 2 ^ f.second.width) (h2 : x2.toNat < 2 ^ f.third.width)

include hf h0 h1 h2

/-- Each field of an assembled byte holds its own raw value. -/
theorem raw_assemble : f.field0.raw (f.assemble x0 x1 x2) = x0 ∧ f.second.raw (f.assemble x0 x1 x2) = x1 ∧
    f.third.raw (f.assemble x0 x1 x2) = x2 := by
  obtain ⟨⟨⟨hbyte0, -⟩, ⟨hbyte1, -⟩, ⟨hbyte2, -⟩⟩, hdisj01, hdisj02, hdisj12⟩ := hf
  refine ⟨?_, ?_, raw_insert_same _ _ _ hbyte2 h2⟩
  · rw [Format.assemble, raw_insert_of_disjoint _ _ hbyte0 hbyte2 hdisj02,
      raw_insert_of_disjoint _ _ hbyte0 hbyte1 hdisj01, raw_insert_same _ _ _ hbyte0 h0]
  · rw [Format.assemble, raw_insert_of_disjoint _ _ hbyte1 hbyte2 hdisj12, raw_insert_same _ _ _ hbyte1 h1]

/-- An assembled byte is the sum of its fields' shares. -/
theorem assemble_toNat : (f.assemble x0 x1 x2).toNat =
    2 ^ f.field0.lo * x0.toNat + 2 ^ f.second.lo * x1.toNat + 2 ^ f.third.lo * x2.toNat := by
  obtain ⟨⟨⟨hbyte0, -⟩, ⟨hbyte1, -⟩, ⟨hbyte2, -⟩⟩, hdisj01, hdisj02, hdisj12⟩ := hf
  have hraw (g : Field) : g.raw 0#8 = 0#8 := by simp [Field.raw, ext]
  rw [Format.assemble, insert_toNat _ _ _ hbyte2 h2, insert_toNat _ _ _ hbyte1 h1,
    insert_toNat _ _ _ hbyte0 h0 (hraw _), BitVec.toNat_ofNat, Nat.zero_mod, Nat.zero_add]
  · rw [raw_insert_of_disjoint _ _ hbyte1 hbyte0 hdisj01.symm, hraw]
  · rw [raw_insert_of_disjoint _ _ hbyte2 hbyte1 hdisj12.symm, raw_insert_of_disjoint _ _ hbyte2 hbyte0 hdisj02.symm,
      hraw]

end Assembled

/-- Each field of a packed byte holds its encoded lane. -/
theorem raw_pack (f : Format) (hf : f.Valid) (v0 v1 v2 : Byte) :
    f.field0.raw (f.pack v0 v1 v2) = f.field0.encode v0 ∧ f.second.raw (f.pack v0 v1 v2) = f.second.encode v1 ∧
      f.third.raw (f.pack v0 v1 v2) = f.third.encode v2 := by
  have ⟨⟨hfits0, hfits1, hfits2⟩, _⟩ := hf
  rw [pack_eq_assemble]
  exact raw_assemble f hf (encode_lt _ _ hfits0) (encode_lt _ _ hfits1) (encode_lt _ _ hfits2)

/-- Packing what an unpack answers gives the byte with its uncovered bits cleared exactly when nothing was clamped. -/
theorem pack_unpack_eq_iff (f : Format) (hf : f.Valid) (b : Byte) :
    f.pack (f.unpack b).r0 (f.unpack b).r1 (f.unpack b).r2 = b &&& f.covered ↔ f.rangeFlag b = false := by
  have ⟨⟨hfits0, hfits1, hfits2⟩, _⟩ := hf
  have hr1 : (f.unpack b).r1 = f.second.lane b := optLane_eq _ _
  have hr2 : (f.unpack b).r2 = f.third.lane b := optLane_eq _ _
  have hr0 : (f.unpack b).r0 = f.field0.lane b := rfl
  rw [hr0, hr1, hr2, Format.rangeFlag, optOutOfRange_eq, optOutOfRange_eq, Bool.or_eq_false_iff, Bool.or_eq_false_iff,
    and_assoc, ← encode_lane_eq_raw_iff _ _ hfits0, ← Format.second, ← encode_lane_eq_raw_iff _ _ hfits1,
    ← Format.third, ← encode_lane_eq_raw_iff _ _ hfits2, and_covered_eq_assemble f hf]
  constructor
  · intro heq
    obtain ⟨hpack0, hpack1, hpack2⟩ := raw_pack f hf (f.field0.lane b) (f.second.lane b) (f.third.lane b)
    obtain ⟨hbyte0, hbyte1, hbyte2⟩ := raw_assemble f hf (raw_lt _ b hfits0) (raw_lt _ b hfits1) (raw_lt _ b hfits2)
    rw [heq] at hpack0 hpack1 hpack2
    exact ⟨hpack0.symm.trans hbyte0, hpack1.symm.trans hbyte1, hpack2.symm.trans hbyte2⟩
  · rintro ⟨heq0, heq1, heq2⟩
    rw [pack_eq_assemble, heq0, heq1, heq2]

/-- Unpacking a packed tuple of values in range answers the tuple and no flag. -/
theorem unpack_pack (f : Format) (hf : f.Valid) {v0 v1 v2 : Byte} (h0 : f.field0.InRange v0)
    (h1 : f.second.InRange v1) (h2 : f.third.InRange v2) :
    f.unpack (f.pack v0 v1 v2) = { r0 := v0, r1 := v1, r2 := v2 } := by
  have ⟨⟨hfits0, hfits1, hfits2⟩, _⟩ := hf
  obtain ⟨hraw0, hraw1, hraw2⟩ := raw_pack f hf v0 v1 v2
  obtain ⟨hlane0, hflag0⟩ := lane_outOfRange_of_raw_eq _ hfits0 h0 hraw0
  obtain ⟨hlane1, hflag1⟩ := lane_outOfRange_of_raw_eq _ hfits1 h1 hraw1
  obtain ⟨hlane2, hflag2⟩ := lane_outOfRange_of_raw_eq _ hfits2 h2 hraw2
  rw [Format.unpack, optLane_eq, optLane_eq, optOutOfRange_eq, optOutOfRange_eq, hlane0, hflag0, ← Format.second,
    hlane1, hflag1, ← Format.third, hlane2, hflag2]

/-! ### What a pack answers, from its fields (R130) -/

/-- What the field adds to a packed byte, as a number. -/
def Machine.Field.share (g : Field) (lane : Byte) : Nat := 2 ^ g.lo * (g.encode lane).toNat

/-- Any field: its operand less the bias, modulo its width. -/
theorem share_eq (g : Field) {lane : Byte} {n : Nat} (hw : g.width ≤ 8)
    (hn : 2 ^ g.lo * ((g.operand lane - g.bias) % (2 ^ g.width : Nat)).toNat = n) : g.share lane = n := by
  rw [← hn, ← encode_toNat g lane hw, Int.toNat_natCast, Field.share]

/-- An unsigned field without bias: the low bits of its lane. -/
theorem share_plainField {lo width n : Nat} {max : Int} {lane : Byte} (hw : width ≤ 8)
    (hn : 2 ^ lo * (lane.toNat % 2 ^ width) = n) : (plainField lo width max).share lane = n := by
  refine share_eq _ hw ?_
  have hoperand : (plainField lo width max).operand lane - (plainField lo width max).bias = lane.toNat :=
    Int.sub_zero _
  rw [hoperand, ← Int.natCast_emod, Int.toNat_natCast]
  exact hn

/-- An unused lane adds nothing. -/
theorem share_noField (lane : Byte) : noField.share lane = 0 :=
  share_plainField (by decide) (by omega)

/-- A packed byte is the sum of its fields' shares. -/
theorem pack_toNat_of_shares (f : Format) (hf : f.Valid) {v0 v1 v2 : Byte} {n0 n1 n2 n : Nat}
    (h0 : f.field0.share v0 = n0) (h1 : f.second.share v1 = n1) (h2 : f.third.share v2 = n2) (hn : n0 + (n1 + n2) = n) :
    (f.pack v0 v1 v2).toNat = n := by
  have ⟨⟨hfits0, hfits1, hfits2⟩, _⟩ := hf
  rw [pack_eq_assemble, assemble_toNat f hf (encode_lt _ _ hfits0) (encode_lt _ _ hfits1) (encode_lt _ _ hfits2),
    ← hn, ← h0, ← h1, ← h2, ← Nat.add_assoc]
  rfl

/-! ### The formats and the commands that serve them -/

/-- The format is valid, and the two commands are its unpack and its pack. -/
structure Machine.Format.Serves (f : Format) (unpack : Byte → Instr) (pack : Byte → Byte → Byte → Instr) : Prop where
  valid : f.Valid
  exec_unpack : ∀ b s, exec (unpack b) s = .next (unpackByte f b s)
  exec_pack : ∀ v0 v1 v2 s, exec (pack v0 v1 v2) s = .next (packLanes f v0 v1 v2 s)

theorem curveFormat_valid (leftHigh : Bool) : (curveFormat leftHigh).Valid := by
  cases leftHigh <;> decide

theorem curve_serves : (curveFormat Config.curveLeftHigh).Serves .unpkCurve (fun r0 r1 _ => .packCurve r0 r1) :=
  ⟨curveFormat_valid _, fun _ _ => rfl, fun _ _ _ _ => rfl⟩

theorem dtrs_serves : dtrsFormat.Serves .unpkDtrs (fun r0 r1 _ => .packDtrs r0 r1) :=
  ⟨by decide, fun _ _ => rfl, fun _ _ _ _ => rfl⟩

theorem sens_serves : sensFormat.Serves .unpkSens (fun r0 r1 _ => .packSens r0 r1) :=
  ⟨by decide, fun _ _ => rfl, fun _ _ _ _ => rfl⟩

theorem osc_serves : oscFormat.Serves .unpkOsc (fun r0 r1 _ => .packOsc r0 r1) :=
  ⟨by decide, fun _ _ => rfl, fun _ _ _ _ => rfl⟩

theorem lfo_serves : lfoFormat.Serves .unpkLfo .packLfo :=
  ⟨by decide, fun _ _ => rfl, fun _ _ _ _ => rfl⟩

theorem fbks_serves : fbksFormat.Serves .unpkFbks (fun r0 r1 _ => .packFbks r0 r1) :=
  ⟨by decide, fun _ _ => rfl, fun _ _ _ _ => rfl⟩

theorem alg_serves : algFormat.Serves .unpkAlg (fun r0 _ _ => .packAlg r0) :=
  ⟨by decide, fun _ _ => rfl, fun _ _ _ _ => rfl⟩

theorem trn_serves : trnFormat.Serves .unpkTrn (fun r0 _ _ => .packTrn r0) :=
  ⟨by decide, fun _ _ => rfl, fun _ _ _ _ => rfl⟩

theorem u99_serves : u99Format.Serves .unpkU99 (fun r0 _ _ => .packU99 r0) :=
  ⟨by decide, fun _ _ => rfl, fun _ _ _ _ => rfl⟩

section Served

variable {f : Format} {unpack : Byte → Instr} {pack : Byte → Byte → Byte → Instr} (hf : f.Serves unpack pack)

include hf

/-- A pack answers the sum of the three shares. -/
theorem Machine.Format.Serves.exec_pack_of_shares {v0 v1 v2 : Byte} {n0 n1 n2 n : Nat} (h0 : f.field0.share v0 = n0)
    (h1 : f.second.share v1 = n1) (h2 : f.third.share v2 = n2) (hn : n0 + (n1 + n2) = n) (s : State) :
    exec (pack v0 v1 v2) s = .next (s.answering (wordOf n)) := by
  rw [hf.exec_pack, packLanes, respond_byte_eq, pack_toNat_of_shares f hf.valid h0 h1 h2 hn]

/-- The same with lane 2 unused. -/
theorem Machine.Format.Serves.exec_pack_of_two_shares (hthird : f.third = noField) {v0 v1 : Byte} {n0 n1 : Nat}
    (h0 : f.field0.share v0 = n0) (h1 : f.second.share v1 = n1) (s : State) :
    exec (pack v0 v1 0#8) s = .next (s.answering (wordOf (n1 + n0))) := by
  have h2 : f.third.share 0#8 = 0 := hthird ▸ share_noField 0#8
  exact hf.exec_pack_of_shares h0 h1 h2 (Nat.add_comm n0 n1) s

/-- The same with lanes 1 and 2 unused. -/
theorem Machine.Format.Serves.exec_pack_of_one_share (hsecond : f.second = noField) (hthird : f.third = noField)
    {v0 : Byte} {n : Nat} (h0 : f.field0.share v0 = n) (s : State) :
    exec (pack v0 0#8 0#8) s = .next (s.answering (wordOf n)) := by
  have h1 : f.second.share 0#8 = 0 := hsecond ▸ share_noField 0#8
  have h2 : f.third.share 0#8 = 0 := hthird ▸ share_noField 0#8
  exact hf.exec_pack_of_shares h0 h1 h2 rfl s

end Served

/-! ### The nine commands -/

/-- The byte of PACK.CURVE for a given value of `CURVE_LEFT_HIGH` (R131). -/
def curveByte (leftHigh : Bool) (right left : Byte) : Nat :=
  if leftHigh then 4 * (left.toNat % 4) + right.toNat % 4 else 4 * (right.toNat % 4) + left.toNat % 4

/-- With the parameter 0 the two fields change places, and so do their shares. -/
theorem pack_curveFormat_toNat (leftHigh : Bool) (right left : Byte) :
    ((curveFormat leftHigh).pack right left 0#8).toNat = curveByte leftHigh right left := by
  have hlow (lane : Byte) : (plainField 0 2 3).share lane = lane.toNat % 4 := share_plainField (by decide) (by omega)
  have hhigh (lane : Byte) : (plainField 2 2 3).share lane = 4 * (lane.toNat % 4) :=
    share_plainField (by decide) (by omega)
  cases leftHigh with
  | true =>
    exact pack_toNat_of_shares _ (curveFormat_valid true) (hlow right) (hhigh left) (share_noField 0#8) (Nat.add_comm _ _)
  | false => exact pack_toNat_of_shares _ (curveFormat_valid false) (hhigh right) (hlow left) (share_noField 0#8) rfl

/-- Unpacking the byte of PACK.CURVE answers both operands modulo 4, wherever they sit. -/
theorem unpackByte_curveByte (leftHigh : Bool) (right left : Byte) (s : State) :
    unpackByte (curveFormat leftHigh) (BitVec.ofNat 8 (curveByte leftHigh right left)) s =
      s.answering (wordOf (r0 := right.toNat % 4) (r1 := left.toNat % 4)) := by
  have hlow (high low : Nat) : (4 * (high % 4) + low % 4) % 2 ^ 8 % 4 = low % 4 := by omega
  have hhigh (high low : Nat) : (4 * (high % 4) + low % 4) % 2 ^ 8 / 4 % 4 = high % 4 := by omega
  rw [unpackByte_curveFormat, BitVec.toNat_ofNat]
  cases leftHigh with
  | true => rw [curveByte, if_pos rfl, if_pos rfl, hlow, hhigh]
  | false => rw [curveByte, if_neg Bool.false_ne_true, if_neg Bool.false_ne_true, hlow, hhigh]

/-- Settles O31: the two fields add up to the byte in either order, and each is read back from it (R131). -/
theorem packCurve : Obligations.PackCurve := by
  refine ⟨decodesBB_of_formatBB (fun c hop => by rw [decode, hop]; rfl) fun _ _ => rfl, fun right left =>
    ⟨fun s => ?_, fun s => ?_⟩⟩
  · refine (curve_serves.exec_pack right left 0#8 s).trans ?_
    rw [packLanes, respond_byte_eq, pack_curveFormat_toNat, curveByte]
  · exact congrArg Host.Outcome.next (unpackByte_curveByte Config.curveLeftHigh right left s)

/-- Settles O32: the detune has its bias of -7 removed and keeps four bits (R132). -/
theorem packDetuneAndRateScaling : Obligations.PackDetuneAndRateScaling := by
  refine ⟨decodesBB_of_formatBB (fun c hop => by rw [decode, hop]; rfl) fun _ _ => rfl, fun rs detune s => ?_⟩
  have hrs : dtrsFormat.field0.share rs = rs.toNat % 8 := share_plainField (by decide) (by omega)
  have hdetune : dtrsFormat.second.share detune = 8 * ((detune.toInt + 7) % 16).toNat := share_eq _ (by decide) rfl
  exact dtrs_serves.exec_pack_of_two_shares rfl hrs hdetune s

/-- Settles O33: velocity sensitivity keeps six bits, not the three that its range needs (R133). -/
theorem packSensitivities : Obligations.PackSensitivities := by
  refine ⟨decodesBB_of_formatBB (fun c hop => by rw [decode, hop]; rfl) fun _ _ => rfl, fun ams vs s => ?_⟩
  have hams : sensFormat.field0.share ams = ams.toNat % 4 := share_plainField (by decide) (by omega)
  have hvs : sensFormat.second.share vs = 4 * (vs.toNat % 64) := share_plainField (by decide) (by omega)
  exact sens_serves.exec_pack_of_two_shares rfl hams hvs s

/-- Settles O34: coarse keeps seven bits, not the five that its range needs (R134). -/
theorem packOscillator : Obligations.PackOscillator := by
  refine ⟨decodesBB_of_formatBB (fun c hop => by rw [decode, hop]; rfl) fun _ _ => rfl, fun mode coarse s => ?_⟩
  have hmode : oscFormat.field0.share mode = mode.toNat % 2 := share_plainField (by decide) (by omega)
  have hcoarse : oscFormat.second.share coarse = 2 * (coarse.toNat % 128) := share_plainField (by decide) (by omega)
  exact osc_serves.exec_pack_of_two_shares rfl hmode hcoarse s

/-- Settles O35: format BBB checks nothing, and the byte has three fields (R135). -/
theorem packLfo : Obligations.PackLfo := by
  refine ⟨fun c hop => ?_, fun ks wave pms => ⟨append_byteLanes 0x24#8 pms wave ks, fun s => ?_⟩⟩
  · rw [decode, opOf, hop]
    rfl
  · have hks : lfoFormat.field0.share ks = ks.toNat % 2 := share_plainField (by decide) (by omega)
    have hwave : lfoFormat.second.share wave = 2 * (wave.toNat % 8) := share_plainField (by decide) (by omega)
    have hpms : lfoFormat.third.share pms = 16 * (pms.toNat % 8) := share_plainField (by decide) (by omega)
    exact lfo_serves.exec_pack_of_shares hks hwave hpms (by omega) s

/-- Settles O36: three bits of feedback below one bit of key sync (R136). -/
theorem packFeedback : Obligations.PackFeedback := by
  refine ⟨decodesBB_of_formatBB (fun c hop => by rw [decode, hop]; rfl) fun _ _ => rfl, fun fb oks s => ?_⟩
  have hfb : fbksFormat.field0.share fb = fb.toNat % 8 := share_plainField (by decide) (by omega)
  have hoks : fbksFormat.second.share oks = 8 * (oks.toNat % 2) := share_plainField (by decide) (by omega)
  exact fbks_serves.exec_pack_of_two_shares rfl hfb hoks s

/-- Settles O37: the id has its bias of 1 removed and keeps five bits (R137). -/
theorem packAlgorithm : Obligations.PackAlgorithm := by
  refine ⟨decodesB_of_formatB (fun c hop => by rw [decode, hop]; rfl) fun _ => rfl, fun id s => ?_⟩
  have hid : algFormat.field0.share id = (((id.toNat : Int) - 1) % 32).toNat := share_eq _ (by decide) (Nat.one_mul _)
  exact alg_serves.exec_pack_of_one_share rfl rfl hid s

/-- Settles O38: the transpose has its bias of -24 removed and keeps all eight bits (R138). -/
theorem packTranspose : Obligations.PackTranspose := by
  refine ⟨decodesB_of_formatB (fun c hop => by rw [decode, hop]; rfl) fun _ => rfl, fun transpose s => ?_⟩
  have htranspose : trnFormat.field0.share transpose = ((transpose.toInt + 24) % 256).toNat :=
    share_eq _ (by decide) (Nat.one_mul _)
  exact trn_serves.exec_pack_of_one_share rfl rfl htranspose s

/-- Settles O39: the one field is the whole byte, without bias (R139). -/
theorem packPlainByte : Obligations.PackPlainByte := by
  refine ⟨decodesB_of_formatB (fun c hop => by rw [decode, hop]; rfl) fun _ => rfl, fun v s => ?_⟩
  have hv : u99Format.field0.share v = v.toNat := share_plainField (by decide) (by omega)
  exact u99_serves.exec_pack_of_one_share rfl rfl hv s

/-! ### The response word by lanes (R63) -/

/-- The top byte of the response word: the flags, `E0` lowest. -/
def Machine.Response.flagByte (r : Response) : Byte :=
  0#4 ++ BitVec.ofBool r.ckm ++ BitVec.ofBool r.e2 ++ BitVec.ofBool r.e1 ++ BitVec.ofBool r.e0

theorem flagByte_bne_zero (r : Response) : (r.flagByte != 0) = (r.e0 || r.e1 || r.e2 || r.ckm) := by
  rw [Response.flagByte]
  generalize r.e0 = e0, r.e1 = e1, r.e2 = e2, r.ckm = ckm
  revert e0 e1 e2 ckm
  decide

theorem response_word_eq_lanes (r : Response) : r.word = r.flagByte ++ r.r2 ++ r.r1 ++ r.r0 := by
  apply BitVec.eq_of_toNat_eq
  simp only [response_word_toNat, Response.flagByte, append_toNat, BitVec.toNat_ofBool, BitVec.toNat_ofNat]
  omega

/-- A response of three lanes and no flag. -/
theorem response_word_of_three_lanes (r0 r1 r2 : Byte) :
    Response.word { r0 := r0, r1 := r1, r2 := r2 } = 0#8 ++ r2 ++ r1 ++ r0 := by
  have hflags : Response.flagByte { r0 := r0, r1 := r1, r2 := r2 } = 0#8 :=
    bne_eq_false_iff_eq.1 (flagByte_bne_zero _)
  rw [response_word_eq_lanes, hflags]

/-- A response of two lanes and no flag. -/
theorem response_word_of_two_lanes (r0 r1 : Byte) : Response.word { r0 := r0, r1 := r1 } = 0#16 ++ r1 ++ r0 :=
  response_word_of_three_lanes r0 r1 0#8

/-- A response of one lane and no flag. -/
theorem response_word_of_one_lane (r0 : Byte) : Response.word { r0 := r0 } = 0#24 ++ r0 :=
  response_word_of_three_lanes r0 0#8 0#8

/-! ### Pack and unpack are inverse (R116, R140) -/

/-- First direction, for operands in range. -/
theorem Machine.Format.Serves.packedThenUnpacked {f : Format} {unpack : Byte → Instr}
    {pack : Byte → Byte → Byte → Instr} (hf : f.Serves unpack pack) {v0 v1 v2 : Byte} {answer : Word}
    (h0 : f.field0.InRange v0) (h1 : f.second.InRange v1) (h2 : f.third.InRange v2)
    (hanswer : Response.word { r0 := v0, r1 := v1, r2 := v2 } = answer) :
    PackedThenUnpacked (pack v0 v1 v2) unpack answer := by
  have hextend (b : Byte) : b.setWidth 32 = 0#24 ++ b := by
    apply BitVec.eq_of_toNat_eq
    rw [BitVec.toNat_setWidth, zero_append_toNat]
    omega
  refine ⟨f.pack v0 v1 v2, fun s s' => ⟨?_, ?_⟩⟩
  · rw [hf.exec_pack, packLanes_eq, response_word_of_one_lane, hextend]
  · rw [hf.exec_unpack, unpackByte, unpack_pack f hf.valid h0 h1 h2, respond_eq, hanswer]
    exact congrArg (fun t : State => Host.Outcome.next (t.answering answer)) (State.raiseErr_false s')

/-- Second direction, for the bits that the format covers. -/
theorem Machine.Format.Serves.unpackedThenPacked {f : Format} {unpack : Byte → Instr}
    {pack : Byte → Byte → Byte → Instr} (hf : f.Serves unpack pack) {covered : Byte} (hcovered : f.covered = covered) :
    UnpackedThenPacked unpack pack covered := by
  intro b
  have hflags : ((f.unpack b).flagByte != 0) = f.rangeFlag b := (flagByte_bne_zero _).trans (Bool.or_false _)
  refine ⟨(f.unpack b).flagByte, (f.unpack b).r0, (f.unpack b).r1, (f.unpack b).r2,
    f.pack (f.unpack b).r0 (f.unpack b).r1 (f.unpack b).r2, fun s => ?_, fun s => ?_, fun hzero => ?_, fun hne => ?_⟩
  · rw [hf.exec_unpack, unpackByte_eq_raiseErr, ← hflags, respond_eq, response_word_eq_lanes]
    rfl
  · rw [hf.exec_pack, packLanes_eq, response_word_of_one_lane]
  · rw [← hcovered, pack_unpack_eq_iff f hf.valid, ← hflags, hzero]
    rfl
  · rw [← hcovered, Ne, pack_unpack_eq_iff f hf.valid, ← hflags, bne_eq_false_iff_eq]
    exact hne

theorem inRange_plainField {lo width : Nat} {max : Int} {lane : Byte} (h : (lane.toNat : Int) ≤ max) :
    (plainField lo width max).InRange lane :=
  ⟨Int.natCast_nonneg _, h⟩

theorem inRange_noField : noField.InRange 0#8 := inRange_plainField le_rfl

theorem curveFormat_covered (leftHigh : Bool) : (curveFormat leftHigh).covered = 0x0F#8 := by
  cases leftHigh <;> rfl

/-- Settles O40: the fields of a format do not overlap, every value in range has a raw value, and a clamped value is
another raw value than the byte's. -/
theorem packAndUnpackAreInverse : Obligations.PackAndUnpackAreInverse := by
  refine ⟨⟨fun right left hright hleft => ?_, fun rs detune hrs hmin hmax => ?_, fun ams vs hams hvs => ?_,
    fun mode coarse hmode hcoarse => ?_, fun ks wave pms hks hwave hpms => ?_, fun fb oks hfb hoks => ?_,
    fun id hmin hmax => ?_, fun t hmin hmax => ?_, fun v hv => ?_⟩, ?_⟩
  · exact curve_serves.packedThenUnpacked (inRange_plainField (by omega)) (inRange_plainField (by omega))
      inRange_noField (response_word_of_two_lanes right left)
  · exact dtrs_serves.packedThenUnpacked (inRange_plainField (by omega)) ⟨hmin, hmax⟩ inRange_noField
      (response_word_of_two_lanes rs detune)
  · exact sens_serves.packedThenUnpacked (inRange_plainField (by omega)) (inRange_plainField (by omega))
      inRange_noField (response_word_of_two_lanes ams vs)
  · exact osc_serves.packedThenUnpacked (inRange_plainField (by omega)) (inRange_plainField (by omega))
      inRange_noField (response_word_of_two_lanes mode coarse)
  · exact lfo_serves.packedThenUnpacked (inRange_plainField (by omega)) (inRange_plainField (by omega))
      (inRange_plainField (by omega)) (response_word_of_three_lanes ks wave pms)
  · exact fbks_serves.packedThenUnpacked (inRange_plainField (by omega)) (inRange_plainField (by omega))
      inRange_noField (response_word_of_two_lanes fb oks)
  · exact alg_serves.packedThenUnpacked ⟨Int.ofNat_le.2 hmin, Int.ofNat_le.2 hmax⟩ inRange_noField inRange_noField
      (response_word_of_one_lane id)
  · exact trn_serves.packedThenUnpacked ⟨hmin, hmax⟩ inRange_noField inRange_noField (response_word_of_one_lane t)
  · exact u99_serves.packedThenUnpacked (inRange_plainField (by omega)) inRange_noField inRange_noField
      (response_word_of_one_lane v)
  · exact ⟨curve_serves.unpackedThenPacked (curveFormat_covered _), dtrs_serves.unpackedThenPacked rfl,
      sens_serves.unpackedThenPacked rfl, osc_serves.unpackedThenPacked rfl, lfo_serves.unpackedThenPacked rfl,
      fbks_serves.unpackedThenPacked rfl, alg_serves.unpackedThenPacked rfl, trn_serves.unpackedThenPacked rfl,
      u99_serves.unpackedThenPacked rfl⟩

end Sys2Proof
end

section
/-! The statements of `43_size_field.md`: the words and results of UNPK.SIZE and PACK.SIZE, and their two
round trips. -/

namespace Sys2Proof

open Machine

/-! ### Words of format S (R62) -/

/-- The word of the command with a 14-bit operand, part by part. -/
theorem append_sizeOperand (op : Byte) (size : BitVec 14) : (op ++ (0#10 ++ size) : Word) = op ++ 0#10 ++ size := by
  apply BitVec.eq_of_toNat_eq
  simp only [append_toNat]
  omega

theorem decode_of_opOf_packSize (c : Word) (hop : opOf c = 0x29#8) : decode c = formatS c .packSize := by
  rw [decode, hop]
  rfl

/-! ### The decoded size (R151) -/

/-- The two lanes that hold a decoded size and the lane of its record count, as numbers: no bit is lost. -/
theorem decodedSizeLanes_toNat (size : BitVec 15) :
    (size.extractLsb' 0 8).toNat = size.toNat % 256 ∧ ((size.extractLsb' 8 7).setWidth 8).toNat = size.toNat / 256 ∧
      (recordCount size).toNat = size.toNat / 128 := by
  have := size.isLt
  simp only [recordCount, BitVec.toNat_ofNat, BitVec.toNat_setWidth, BitVec.extractLsb'_toNat,
    Nat.shiftRight_eq_div_pow]
  omega

/-- When the second byte has no bit 7, the OR with the shifted first byte is an addition. -/
theorem decodedSize_toNat_of_lt (second first : Byte) (h : second.toNat < 128) :
    (decodedSize second first).toNat = 128 * first.toNat + second.toNat := by
  rw [decodedSize_toNat, ← Nat.shiftLeft_add_eq_or_of_lt (i := 7) h, Nat.shiftLeft_eq, Nat.mul_comm]

/-- Decoding inverts the split of a 14-bit size into its two bytes. -/
theorem decodedSize_sizeBytes (size : BitVec 14) :
    (decodedSize (sizeSecond size) (sizeFirst size)).toNat = size.toNat := by
  obtain ⟨hfirst, hsecond⟩ := sizeBytes_toNat size
  have hlt : (sizeSecond size).toNat < 128 := hsecond ▸ Nat.mod_lt _ (by decide)
  rw [decodedSize_toNat_of_lt _ _ hlt, hfirst, hsecond, Nat.div_add_mod]

section SevenBitBytes

variable {second first : Byte} (hsecond : second.toNat < 128) (hfirst : first.toNat < 128)

include hsecond hfirst

/-- The decoded size of two 7-bit bytes is a 14-bit number. -/
theorem decodedSize_setWidth_toNat :
    ((decodedSize second first).setWidth 14).toNat = (decodedSize second first).toNat := by
  rw [BitVec.toNat_setWidth, Nat.mod_eq_of_lt]
  rw [decodedSize_toNat_of_lt _ _ hsecond]
  omega

/-- The split of a size inverts the decoding of two 7-bit bytes. -/
theorem sizeBytes_decodedSize : sizeFirst ((decodedSize second first).setWidth 14) = first ∧
    sizeSecond ((decodedSize second first).setWidth 14) = second := by
  obtain ⟨hdiv, hmod⟩ := sizeBytes_toNat ((decodedSize second first).setWidth 14)
  rw [decodedSize_setWidth_toNat hsecond hfirst, decodedSize_toNat_of_lt _ _ hsecond] at hdiv hmod
  exact ⟨BitVec.eq_of_toNat_eq (by omega), BitVec.eq_of_toNat_eq (by omega)⟩

end SevenBitBytes

/-! ### What the two commands answer (R152, R153) -/

/-- UNPK.SIZE answers the decoded size by lanes and its record count, as the number of the statements. -/
theorem exec_unpkSize_eq_wordOf {second first : Byte} {n : Nat} (hn : (decodedSize second first).toNat = n)
    (s : State) : exec (.unpkSize second first) s =
      .next (s.answering (wordOf (r0 := n % 256) (r1 := n / 256) (r2 := n / 128))) := by
  obtain ⟨hlow, hhigh, hcount⟩ := decodedSizeLanes_toNat (decodedSize second first)
  rw [exec, execUnpkSize, respond_eq, response_word_eq_wordOf, hlow, hhigh, hcount, hn]

/-- The same with lanes 0 and 1 read as one number, the whole size. -/
theorem exec_unpkSize_eq_ofNat {second first : Byte} {n : Nat} (hn : (decodedSize second first).toNat = n) (s : State) :
    exec (.unpkSize second first) s = .next (s.answering (BitVec.ofNat 32 (n + 2 ^ 16 * (n / 128)))) := by
  have hword : wordOf (r0 := n % 256) (r1 := n / 256) (r2 := n / 128) = BitVec.ofNat 32 (n + 2 ^ 16 * (n / 128)) := by
    have hsize : n % 256 + 2 ^ 8 * (n / 256) = n := Nat.mod_add_div n 256
    rw [wordOf, hsize]
    rfl
  rw [exec_unpkSize_eq_wordOf hn, hword]

/-- PACK.SIZE answers the two size bytes, the first one in the higher lane. -/
theorem exec_packSize (size : BitVec 14) (s : State) :
    exec (.packSize size) s = .next (s.answering (0#16 ++ sizeFirst size ++ sizeSecond size)) := by
  rw [exec, execPackSize, respond_eq, response_word_of_two_lanes]

/-! ### The statements -/

/-- Settles O41: the lanes of the 15-bit size lose no bit (R152). -/
theorem unpackSizeField : Obligations.UnpackSizeField :=
  ⟨decodesBB_of_formatBB (fun c hop => by rw [decode, hop]; rfl) fun _ _ => rfl,
    fun second first => exec_unpkSize_eq_wordOf (decodedSize_toNat second first)⟩

/-- Settles O42: the two bytes are the base-128 digits of the size (R153). -/
theorem packSizeField : Obligations.PackSizeField := by
  refine ⟨fun c hop => ?_, fun size => ⟨append_sizeOperand 0x29 size, fun s => ?_⟩⟩
  · rw [decode_of_opOf_packSize c hop]
    exact ⟨fun hzero => if_pos (beq_iff_eq.2 hzero), fun hzero => if_neg fun hbeq => hzero (beq_iff_eq.1 hbeq)⟩
  · obtain ⟨hfirst, hsecond⟩ := sizeBytes_toNat size
    rw [exec_packSize, ← response_word_of_two_lanes, response_word_eq_wordOf, hfirst, hsecond]
    rfl

/-- Settles O43: splitting a size and joining its bytes are inverse on 14-bit sizes and 7-bit bytes (R154). -/
theorem sizeFieldRoundTrips : Obligations.SizeFieldRoundTrips := by
  refine ⟨fun size => ⟨sizeSecond size, sizeFirst size, fun s s' => ⟨exec_packSize size s, ?_⟩⟩,
    fun second first hsecond hfirst => ⟨(decodedSize second first).setWidth 14, fun s s' => ⟨?_, ?_⟩⟩⟩
  · exact exec_unpkSize_eq_ofNat (decodedSize_sizeBytes size) s'
  · exact exec_unpkSize_eq_ofNat (decodedSize_setWidth_toNat hsecond hfirst).symm s
  · obtain ⟨hfirst_eq, hsecond_eq⟩ := sizeBytes_decodedSize hsecond hfirst
    rw [exec_packSize, hfirst_eq, hsecond_eq]

end Sys2Proof
end

section
/-! The statements of `44_checksum.md`: the words and results of the four checksum commands, CSUM as the negated sum of
the bytes over a list of commands, and the trailer that an encoder writes and a decoder compares. -/

namespace Sys2Proof

open Machine

/-! ### Words of format Z (R62) -/

/-- A command whose words the decoder reads in format Z. -/
theorem decodesZ_of_formatZ {op : Byte} {i : Instr} (hdecode : ∀ c, opOf c = op → decode c = formatZ c i)
    (hencode : encode i = op ++ 0#24) : DecodesZ op i := by
  refine ⟨hencode, fun c hop => ?_⟩
  rw [hdecode c hop]
  exact ⟨fun hzero => if_pos (beq_iff_eq.2 hzero), fun hzero => if_neg fun hbeq => hzero (beq_iff_eq.1 hbeq)⟩

/-! ### What the commands answer (R160, R161, R163, R165) -/

theorem exec_ckclr (s : State) : exec .ckclr s = .next ({ s with csum := 0 }.answering 0#32) := by
  rw [exec, execCkclr, respond_eq, response_word_eq_wordOf]
  rfl

theorem exec_ckadd (b : Byte) (s : State) :
    exec (.ckadd b) s = .next ({ s with csum := s.csum - b }.answering (wordOf (s.csum - b).toNat)) := by
  rw [exec, execCkadd, respond_byte_eq]

/-- A subtraction of bytes wraps modulo 256 (`44_checksum.md` R161). -/
theorem byte_sub_toNat (x b : Byte) : (x - b).toNat = (((x.toNat : Int) - b.toNat) % 256).toNat := by
  rw [BitVec.toNat_sub]
  have := b.isLt
  omega

/-- The answer of CKCMP, as the number of the statements. -/
theorem ckcmp_word_eq_wordOf (b : Byte) (s : State) :
    Response.word { r0 := s.trailer, r1 := b, ckm := b != s.trailer } =
      wordOf (r0 := s.csum.toNat % 128) (r1 := b.toNat) (ckm := b != s.trailer) := by
  rw [response_word_eq_wordOf, trailer_toNat]
  rfl

/-- Settles O44: the one word of CKCLR, and CSUM cleared with an answer of 0 (R160). -/
theorem ckclrStartsAChecksum : Obligations.CkclrStartsAChecksum :=
  ⟨decodesZ_of_formatZ (fun c hop => by rw [decode, hop]; rfl) rfl, exec_ckclr⟩

/-- Settles O45: the byte subtraction is the subtraction modulo 256 (R161). -/
theorem ckaddSubtractsTheByte : Obligations.CkaddSubtractsTheByte := by
  refine ⟨decodesB_of_formatB (fun c hop => by rw [decode, hop]; rfl) fun _ => rfl, fun b s => ?_⟩
  simp only [← byte_sub_toNat, BitVec.ofNat_toNat, BitVec.setWidth_eq, exec_ckadd]

/-- Settles O46: the trailer is CSUM modulo 128, and the state is only answered from (R163). -/
theorem ckrdReadsTheTrailer : Obligations.CkrdReadsTheTrailer := by
  refine ⟨decodesZ_of_formatZ (fun c hop => by rw [decode, hop]; rfl) rfl, fun s => ?_⟩
  rw [exec, execCkrd, respond_eq, response_word_eq_wordOf, trailer_toNat]
  rfl

/-- Settles O47: the comparison of all 8 bits is the comparison of the byte with CSUM modulo 128 (R165). -/
theorem ckcmpComparesTheTrailer : Obligations.CkcmpComparesTheTrailer := by
  refine ⟨decodesB_of_formatB (fun c hop => by rw [decode, hop]; rfl) fun _ => rfl, fun b s => ?_⟩
  have hckm : decide (b.toNat ≠ s.csum.toNat % 128) = (b != s.trailer) := by
    rw [Bool.eq_iff_iff, decide_eq_true_iff, bne_trailer_iff]
  simp only [hckm]
  rw [exec, execCkcmp, respond_eq, ckcmp_word_eq_wordOf]
  rfl

/-! ### The bytes that the CKADD commands of a list carry -/

theorem addedBytes_cons (c : Word) (ws : List Word) : addedBytes (c :: ws) = addedBytes [c] ++ addedBytes ws :=
  List.filterMap_append (l := [c])

theorem addedBytes_singleton_of_ckadd {c : Word} {b : Byte} (h : decode c = .ok (.ckadd b)) : addedBytes [c] = [b] := by
  rw [addedBytes, List.filterMap_cons_some (b := b) (by rw [h]), List.filterMap_nil]

theorem addedBytes_singleton_of_ne_ckadd {c : Word} (h : ∀ b, decode c ≠ .ok (.ckadd b)) : addedBytes [c] = [] := by
  rw [addedBytes, List.filterMap_cons_none, List.filterMap_nil]
  split
  · exact absurd ‹_› (h _)
  · rfl

/-- The order of the words does not matter to the sum of the bytes (`44_checksum.md` R167). -/
theorem byteSum_addedBytes_perm {ws ws' : List Word} (h : ws.Perm ws') :
    byteSum (addedBytes ws) = byteSum (addedBytes ws') :=
  ((h.filterMap _).map _).sum_nat

/-! ### CSUM over a list of commands -/

/-- Every word but CKCLR takes its CKADD byte, if it has one, off CSUM: the other commands and the illegal words leave
CSUM as it is (`10_state.md` R28, `44_checksum.md` R161). -/
theorem runWord_csum (c : Word) (s t : State) (hclr : decode c ≠ .ok .ckclr) (h : runWord c s = .next t) :
    t.csum = (addedBytes [c]).foldl (· - ·) s.csum := by
  rcases runWord_cases c s with ⟨i, hd, hexec⟩ | ⟨e, hd, hill⟩
  · rw [hexec] at h
    by_cases hadd : ∃ b, i = .ckadd b
    · obtain ⟨b, rfl⟩ := hadd
      rw [addedBytes_singleton_of_ckadd hd]
      cases (exec_ckadd b s).symm.trans h
      rfl
    · have hne : ∀ b, i ≠ .ckadd b := fun b hb => hadd ⟨b, hb⟩
      rw [addedBytes_singleton_of_ne_ckadd fun b hb => hne b (Except.ok.inj (hd.symm.trans hb))]
      exact exec_csum_of_ne i s t h (fun hi => hclr (hi ▸ hd)) hne
  · rw [addedBytes_singleton_of_ne_ckadd fun b hb => by cases hd.symm.trans hb]
    cases hill.symm.trans h
    rfl

/-- Over any list of words without a CKCLR the CKADD bytes are taken off CSUM one after the other. -/
theorem run_words_csum (ws : List Word) (s : State) (rest : List HostAction) (hclr : ∀ c ∈ ws, decode c ≠ .ok .ckclr)
    (hp : s.pending = ws.map .command ++ rest) :
    ∃ t : State, core.run ws.length s = .next t ∧ t.pending = rest ∧
      t.csum = (addedBytes ws).foldl (· - ·) s.csum := by
  induction ws generalizing s with
  | nil => exact ⟨s, rfl, hp, rfl⟩
  | cons c ws ih =>
    obtain ⟨w, s', hrun, hans⟩ := runWord_answeredBy c (s.proceed (ws.map .command ++ rest))
    have hstep : step s = .next s' := (step_of_command s c _ hp).trans hrun
    have hcsum' := runWord_csum c _ s' (hclr c List.mem_cons_self) hrun
    obtain ⟨t, ht, hpending, hcsum⟩ := ih s' (fun d hd => hclr d (List.mem_cons_of_mem c hd)) hans.pending
    refine ⟨t, (run_succ_of_step core _ _ _ hstep).trans ht, hpending, ?_⟩
    rw [hcsum, hcsum', State.proceed_csum, addedBytes_cons c ws, List.foldl_append]

/-- With the word of a command next, the step runs that command. -/
theorem step_of_encode (i : Instr) (hi : i.wellFormed = true) (s : State) (rest : List HostAction)
    (hp : s.pending = .command (encode i) :: rest) : step s = exec i (s.proceed rest) :=
  stepRunsTheDecodedCommand s (encode i) rest i hp (decodeOfEncode i hi)

/-- CKCLR first: CSUM is then 0 less the CKADD bytes, whatever it was before. -/
theorem run_ckclr_words_csum (ws : List Word) (s : State) (rest : List HostAction)
    (hclr : ∀ c ∈ ws, decode c ≠ .ok .ckclr) (hp : s.pending = (encode .ckclr :: ws).map .command ++ rest) :
    ∃ t : State, core.run (ws.length + 1) s = .next t ∧ t.pending = rest ∧
      t.csum = (addedBytes ws).foldl (· - ·) 0 := by
  obtain ⟨s', hstep, hp', hcsum'⟩ :
      ∃ s' : State, step s = .next s' ∧ s'.pending = ws.map .command ++ rest ∧ s'.csum = 0 :=
    ⟨_, (step_of_encode .ckclr rfl s _ hp).trans (exec_ckclr _), rfl, rfl⟩
  rw [← hcsum']
  obtain ⟨t, ht, hpending, hcsum⟩ := run_words_csum ws s' rest hclr hp'
  exact ⟨t, (run_succ_of_step core _ _ _ hstep).trans ht, hpending, hcsum⟩

/-! ### CSUM is the negated sum (R167) -/

/-- Subtracting `0x80` flips bit 7, since a borrow out of bit 7 is lost. -/
theorem sub_0x80_eq_xor (x : Byte) : x - 0x80#8 = x ^^^ 0x80#8 := by
  revert x
  decide

/-- `0x80` is 0 modulo 128, so CKADD of it keeps the trailer. -/
theorem trailer_eq_of_csum_sub_0x80 {s t : State} (h : t.csum = s.csum - 0x80#8) : t.trailer = s.trailer := by
  apply BitVec.eq_of_toNat_eq
  rw [trailer_toNat, trailer_toNat, h, BitVec.toNat_sub, BitVec.toNat_ofNat]
  omega

/-- Settles O48: the bytes taken off 0 one after the other are their negated sum modulo 256, and 128 divides 256. -/
theorem checksumIsTheNegatedSum : Obligations.ChecksumIsTheNegatedSum := by
  refine ⟨fun ws s rest hclr hp => ?_, fun _ _ => byteSum_addedBytes_perm, fun b s => ?_⟩
  · obtain ⟨t, ht, hpending, hcsum⟩ := run_ckclr_words_csum ws s rest hclr hp
    have hneg : t.csum.toNat = ((-(byteSum (addedBytes ws) : Int)) % 256).toNat := by
      rw [hcsum, foldl_sub_toNat, ← zero_sub]
      rfl
    exact ⟨t, ht, hpending, hneg, by omega, by omega⟩
  · refine ⟨_, exec_ckadd b s, sub_eq_self, ?_⟩
    rintro rfl
    exact ⟨sub_0x80_eq_xor s.csum, trailer_eq_of_csum_sub_0x80 rfl⟩

/-! ### The trailer on the encoding and the decoding side (R168) -/

/-- One step as a run. -/
theorem run_one (M : Host.Core) (s : M.State) : M.run 1 s = M.step s := by
  rw [Host.Core.run]
  cases M.step s <;> rfl

/-- A run of `j` steps can be continued by `k` more. -/
theorem run_add_of_run (M : Host.Core) (j k : Nat) (s t : M.State) (h : M.run j s = .next t) :
    M.run (j + k) s = M.run k t := by
  induction j generalizing s with
  | zero =>
    cases h
    rw [Nat.zero_add]
  | succ j ih =>
    rw [Nat.add_right_comm]
    cases hstep : M.step s with
    | next s' =>
      rw [run_succ_of_step M _ s s' hstep] at h ⊢
      exact ih s' h
    | fault | refused =>
      rw [Host.Core.run, hstep] at h
      cases h

/-- After CKCLR and words without a CKCLR, the next command is run from a state whose trailer is the one an encoder
writes for the CKADD bytes. -/
theorem run_ckclr_words_then (i : Instr) (hi : i.wellFormed = true) (ws : List Word) (s : State)
    (rest : List HostAction) (hclr : ∀ c ∈ ws, decode c ≠ .ok .ckclr)
    (hp : s.pending = (encode .ckclr :: ws ++ [encode i]).map .command ++ rest) :
    ∃ u : State, core.run (ws.length + 2) s = exec i u ∧ u.trailer = trailerOf (addedBytes ws) := by
  rw [List.map_append, List.append_assoc] at hp
  obtain ⟨t, ht, hpending, hcsum⟩ := run_ckclr_words_csum ws s _ hclr hp
  refine ⟨t.proceed rest, ?_, ?_⟩
  · have hstep : step t = exec i (t.proceed rest) := step_of_encode i hi t rest hpending
    exact (run_add_of_run core _ 1 s t ht).trans ((run_one core t).trans hstep)
  · rw [State.trailer, State.proceed_csum, hcsum, trailerOf]

/-- Settles O49: the one trailer is `trailerOf` of the bytes, which CKRD answers in lane 0 and CKCMP finds equal. -/
theorem encodedTrailerMatchesOnDecode : Obligations.EncodedTrailerMatchesOnDecode := by
  refine fun bs => ⟨trailerOf bs, fun ws s rest hbytes hclr => ⟨fun hp => ?_, fun hp => ?_⟩⟩
  · obtain ⟨u, hrun, htrailer⟩ := run_ckclr_words_then .ckrd rfl ws s rest hclr hp
    rw [hbytes] at htrailer
    refine ⟨_, _, hrun, List.getLast?_concat, ?_⟩
    exact (response_word_lanes _).1.trans htrailer
  · obtain ⟨u, hrun, htrailer⟩ := run_ckclr_words_then (.ckcmp (trailerOf bs)) rfl ws s rest hclr hp
    rw [hbytes] at htrailer
    have hmatch : (trailerOf bs != u.trailer) = false := bne_eq_false_iff_eq.2 htrailer.symm
    obtain ⟨-, -, -, hckm⟩ :=
      response_word_flags { r0 := u.trailer, r1 := trailerOf bs, ckm := trailerOf bs != u.trailer }
    exact ⟨_, _, hrun, List.getLast?_concat, hckm.trans hmatch⟩

end Sys2Proof
end

section
/-! The statements of `45_system.md`: the words and results of NOP and of the commands that read and write STATUS and
CTRL, and the illegal outcome of a command term that is not well formed. -/

namespace Sys2Proof

open Machine

/-! ### Words of format B with a bound on the byte (R182, R184) -/

/-- A command whose words the decoder reads in format B with a byte below `2 ^ k`: the bits from `k` on must be 0. -/
theorem decode_of_formatBelow {op : Byte} {make : Byte → Instr} (k len : Nat) (hk : k ≤ 8) (hlen : k + len = 24)
    (hdecode : ∀ c, opOf c = op → decode c = formatBelow c (2 ^ k) make) (c : Word) (hop : opOf c = op) :
    (c.extractLsb' k len = 0#len → decode c = .ok (make (lane0 c))) ∧
      (c.extractLsb' k len ≠ 0#len → decode c = .error .reservedBit) := by
  rw [hdecode c hop, formatBelow_eq c k make hk, ← extract_beq_zero c k len hlen]
  exact ⟨fun hzero => if_pos (beq_iff_eq.2 hzero), fun hzero => if_neg fun hbeq => hzero (beq_iff_eq.1 hbeq)⟩

/-! ### STATUS and CTRL as bytes (R23, R27) -/

theorem status_byte_toNat (r : StatusReg) :
    r.byte.toNat = r.err.toNat + 2 * r.ckbad.toNat + 4 * r.ill.toNat := by
  simp only [StatusReg.byte, append_toNat, BitVec.toNat_ofBool, BitVec.toNat_ofNat]
  omega

theorem ctrl_byte_toNat (r : CtrlReg) : r.byte.toNat = r.ckenf.toNat := by
  rw [CtrlReg.byte, zero_append_toNat, BitVec.toNat_ofBool]

/-- The bits of STATUS: the three flags, and 0 from bit 3 on. -/
theorem status_byte_getLsbD (r : StatusReg) (i : Nat) :
    r.byte.getLsbD i = if i = 0 then r.err else if i = 1 then r.ckbad else if i = 2 then r.ill else false := by
  simp only [StatusReg.byte, BitVec.getLsbD_append]
  match i with
  | 0 | 1 | 2 => simp
  | i + 3 => simp

/-- Clearing flags one by one is `STATUS & ~mask & 0x07` (`45_system.md` R182). -/
theorem clearStatus_status_byte (mask : Byte) (s : State) :
    (s.clearStatus mask).status.byte = s.status.byte &&& ~~~mask &&& 0x07#8 := by
  apply BitVec.eq_of_getLsbD_eq
  intro i hi
  rw [BitVec.getLsbD_and, BitVec.getLsbD_and, BitVec.getLsbD_not, status_byte_getLsbD, status_byte_getLsbD,
    State.clearStatus_status]
  match i with
  | 0 | 1 | 2 => simp
  | i + 3 => simp

/-- The one bit of CTRL holds the whole of a value 0 or 1. -/
theorem writeCtrl_ctrl_byte {value : Byte} (h : value.toNat < 2) (s : State) :
    (s.writeCtrl value).ctrl.byte = value := by
  have hvalue : value = 0#8 ∨ value = 1#8 := by bv_omega
  rw [State.writeCtrl_ctrl]
  obtain rfl | rfl := hvalue <;> decide

/-! ### What the commands answer -/

/-- A response of one byte and no flag is the byte, zero extended. -/
theorem respond_byte_eq_setWidth (b : Byte) (s : State) : s.respond { r0 := b } = s.answering (b.setWidth 32) := by
  have hextend : 0#24 ++ b = b.setWidth 32 := by
    apply BitVec.eq_of_toNat_eq
    rw [zero_append_toNat, BitVec.toNat_setWidth]
    omega
  rw [respond_eq, response_word_of_one_lane, hextend]

theorem exec_stclr_of_lt {mask : Byte} (h : mask.toNat < 8) (s : State) :
    exec (.stclr mask) s = .next ((s.clearStatus mask).answering ((s.clearStatus mask).status.byte.setWidth 32)) := by
  rw [exec, execStclr, if_pos ((highBits_eq_zero_iff mask 3 5 rfl).2 h), State.acknowledge, respond_byte_eq_setWidth]

theorem exec_stclr_of_le {mask : Byte} (h : 8 ≤ mask.toNat) (s : State) :
    exec (.stclr mask) s = .next s.illegalAfter := by
  rw [exec, execStclr, if_neg fun hzero => h.not_gt ((highBits_eq_zero_iff mask 3 5 rfl).1 hzero), takeIllegal_eq]

theorem exec_ctrlwr_of_lt {value : Byte} (h : value.toNat < 2) (s : State) :
    exec (.ctrlwr value) s = .next ((s.writeCtrl value).answering (value.setWidth 32)) := by
  rw [exec, execCtrlwr, if_pos ((highBits_eq_zero_iff value 1 7 rfl).2 h), respond_byte_eq_setWidth,
    writeCtrl_ctrl_byte h]

theorem exec_ctrlwr_of_le {value : Byte} (h : 2 ≤ value.toNat) (s : State) :
    exec (.ctrlwr value) s = .next s.illegalAfter := by
  rw [exec, execCtrlwr, if_neg fun hzero => h.not_gt ((highBits_eq_zero_iff value 1 7 rfl).1 hzero), takeIllegal_eq]

/-! ### Illegal geometries (R91) -/

theorem not_legalField_of_eq_false {lo w : BitVec 4} (h : legalGeometry lo w = false) :
    ¬LegalField lo.toNat w.toNat := by
  rw [← legalGeometry_iff, h]
  exact Bool.false_ne_true

/-! ### The statements -/

/-- Settles O6: only STCLR, CTRLWR, BFX and BFI have a term that is not well formed, and `exec` makes each one's check
itself (R91, R182, R184). -/
theorem illFormedCommandsAreIllegal : Obligations.IllFormedCommandsAreIllegal := by
  intro i s hill
  cases i with
  | stclr mask => exact exec_stclr_of_le (not_lt.1 (of_decide_eq_false hill)) s
  | ctrlwr value => exact exec_ctrlwr_of_le (not_lt.1 (of_decide_eq_false hill)) s
  | bfx b lo w =>
    rw [wellFormed_bfx] at hill
    exact execBfx_of_not_legalField b lo w s (not_legalField_of_eq_false hill)
  | bfi b lo w v =>
    rw [wellFormed_bfi] at hill
    exact execBfi_of_not_legalField b v lo w s (not_legalField_of_eq_false hill)
  | _ => cases hill

/-- Settles O15: the bound 8 on the mask is `cmd[23:3] = 0`, and the flags it names are cleared one by one (R182). -/
theorem stclrClearsTheNamedFlags : Obligations.StclrClearsTheNamedFlags :=
  ⟨append_byteOperand 0x02#8, decode_of_formatBelow 3 21 (by decide) rfl fun c hop => by rw [decode, hop]; rfl,
    fun mask s => ⟨fun h => ⟨(s.clearStatus mask).status, clearStatus_status_byte mask s, exec_stclr_of_lt h s⟩,
      fun h => exec_stclr_of_le h s⟩⟩

/-- Settles O17: the bound 2 on the value is `cmd[23:1] = 0`, and CTRL has the bit that a value below 2 needs (R184). -/
theorem ctrlwrWritesCtrl : Obligations.CtrlwrWritesCtrl :=
  ⟨append_byteOperand 0x04#8, decode_of_formatBelow 1 23 (by decide) rfl fun c hop => by rw [decode, hop]; rfl,
    fun value s => ⟨fun h => ⟨(s.writeCtrl value).ctrl, writeCtrl_ctrl_byte h s, exec_ctrlwr_of_lt h s⟩,
      fun h => exec_ctrlwr_of_le h s⟩⟩

/-- Settles O13: the one word of NOP, and a response with no lane and no flag (R180). -/
theorem nopAnswersZero : Obligations.NopAnswersZero := by
  refine ⟨decodesZ_of_formatZ (fun c hop => by rw [decode, hop]; rfl) rfl, fun s => ?_⟩
  rw [exec, execNop, respond_eq, response_word_eq_wordOf]
  rfl

/-- Settles O14: STATUS as a byte is the sum of its flags, and the state is only answered from (R181). -/
theorem strdReadsStatus : Obligations.StrdReadsStatus := by
  refine ⟨decodesZ_of_formatZ (fun c hop => by rw [decode, hop]; rfl) rfl, fun s => ?_⟩
  rw [exec, execStrd, respond_byte_eq, status_byte_toNat]

/-- Settles O16: CTRL as a byte is its one bit, and the state is only answered from (R183). -/
theorem ctrlrdReadsCtrl : Obligations.CtrlrdReadsCtrl := by
  refine ⟨decodesZ_of_formatZ (fun c hop => by rw [decode, hop]; rfl) rfl, fun s => ?_⟩
  rw [exec, execCtrlrd, respond_byte_eq, ctrl_byte_toNat]

end Sys2Proof
end

section
/-! The statement of `47_arithmetic_laws_and_absent_families.md`: a lane and the signed number it stands for. -/

namespace Sys2Proof

open Machine

/-- The numbers that a signed lane has an encoding for are those that `mod 256`, taken to the nearest representative,
leaves as they are. -/
theorem sext8_tc8 {i : Int} (hmin : -128 ≤ i) (hmax : i ≤ 127) : sext8 (tc8 i) = i := by
  rw [sext8, tc8, BitVec.toInt_ofInt]
  exact Int.bmod_eq_of_le (by omega) (by omega)

theorem tc8_sext8 (v : Byte) : tc8 (sext8 v) = v := BitVec.ofInt_toInt

theorem neg_128_le_sext8 (v : Byte) : -128 ≤ sext8 v := BitVec.le_toInt v

theorem sext8_le_127 (v : Byte) : sext8 v ≤ 127 := Int.le_of_lt_add_one BitVec.toInt_lt

/-- Settles O60: on -128..127 reading undoes encoding, and every lane reads as a number of that range that encodes it
(R222). -/
theorem twosComplementLaneReadsBack : Obligations.TwosComplementLaneReadsBack :=
  ⟨fun _ hmin hmax => sext8_tc8 hmin hmax, fun v => ⟨neg_128_le_sext8 v, sext8_le_127 v, tc8_sext8 v⟩⟩

end Sys2Proof
end

section
/-! The statements of `60_exceptions.md` and `70_reset_and_hazards.md`: what a step does with each action of the host,
and that it always answers a next state. -/

namespace Sys2Proof

open Machine

/-! ### The step, by the host's next action -/

/-- The block waits when the host does nothing. -/
theorem step_of_idle (s : State) (hp : s.pending = []) : step s = .next s := by
  rw [step, hp]

theorem step_of_takeResponse (s : State) (rest : List HostAction) (hp : s.pending = .takeResponse :: rest) :
    step s = .next (s.proceed rest).deliver := by
  rw [step, hp]
  rfl

theorem step_of_reset (s : State) (rest : List HostAction) (hp : s.pending = .reset :: rest) :
    step s = .next (State.resetWith rest) := by
  rw [step, hp]
  rfl

/-! ### Illegal words (R212) -/

/-- A word that the table search finds no legal row for decodes to no command, so only the illegal outcome is left. -/
theorem runWord_of_decodeByTable_eq_none (c : Word) (s : State) (h : decodeByTable c = none) :
    runWord c s = .next s.illegalAfter := by
  rcases runWord_cases c s with ⟨i, hd, -⟩ | ⟨e, -, hill⟩
  · have hsome : (Except.ok i : Except Illegal Instr).toOption = decodeByTable c :=
      hd ▸ toOption_decode_eq_decodeByTable c
    cases hsome.trans h
  · rw [hill, takeIllegal_eq]

/-- Settles O4: moving past the word and taking the illegal outcome write different fields (R212). -/
theorem illegalCommandOnlySetsIll : Obligations.IllegalCommandOnlySetsIll := by
  intro s c rest hp hnone
  calc step s = runWord c (s.proceed rest) := step_of_command s c rest hp
    _ = .next (s.proceed rest).illegalAfter := runWord_of_decodeByTable_eq_none c _ hnone

/-! ### No terminal state (R210, R241) -/

/-- Settles O8, by the host's next action: a command word, legal or not, is answered, and the other actions cannot
fail. -/
theorem everyStepAnswersANextState : Obligations.EveryStepAnswersANextState := by
  intro s
  cases hp : s.pending with
  | nil => exact ⟨s, step_of_idle s hp⟩
  | cons a rest =>
    cases a with
    | command c =>
      obtain ⟨w, t, hrun, -⟩ := runWord_answeredBy c (s.proceed rest)
      exact ⟨t, (step_of_command s c rest hp).trans hrun⟩
    | takeResponse => exact ⟨_, step_of_takeResponse s rest hp⟩
    | reset => exact ⟨_, step_of_reset s rest hp⟩

/-! ### Reset and the response channel (R41, R230) -/

/-- Settles O2: every field but the host's later actions is that of the reset state. -/
theorem resetActionReplacesTheState : Obligations.ResetActionReplacesTheState := fun s rest hp =>
  ⟨State.resetWith rest, step_of_reset s rest hp, rfl, rfl, rfl, rfl, rfl, rfl, rfl⟩

/-- Settles O7: waiting, handing over the oldest response, and using up the action when none waits. -/
theorem idleStepAndTakingAResponse : Obligations.IdleStepAndTakingAResponse := by
  refine ⟨step_of_idle, fun s rest w ws hp hr => ?_, fun s rest hp hr => ?_⟩
  · rw [step_of_takeResponse s rest hp, deliver_cons (s.proceed rest) w ws hr]
    rfl
  · rw [step_of_takeResponse s rest hp, deliver_nil (s.proceed rest) hr]
    rfl

end Sys2Proof
end

section
/-! Sample words of `95_test_vectors.md` part 2, each by the rule of `30_encoding.md` that it is a sample of. -/

namespace Sys2Proof

open Machine

/-- A word written out is read as the command whose word it is. -/
theorem decode_of_encode_eq {i : Instr} {c : Word} (hwf : i.wellFormed = true) (hc : encode i = c) :
    decode c = .ok i :=
  hc ▸ decodeOfEncode i hwf

/-- The field of this BFX, at position 4 and 5 bits wide, would end at bit 8, outside the byte (R91). -/
theorem decode_bfx_past_the_byte : decode 0x080054A5#32 = .error .geometry := by
  have hfield : ¬LegalField (positionOf 0x080054A5#32).toNat (widthOf 0x080054A5#32).toNat := by
    rintro ⟨-, -, -, hsum⟩
    exact absurd hsum (by decide)
  rw [decode_of_opOf_bfx _ rfl, formatX, if_pos (by decide), requireGeometry_of_not_legalField _ _ hfield]

/-- Settles O9: the legal words are those of well-formed commands; the illegal ones are a NOP and a PACK.SIZE with a
must-be-0 bit set, a field outside the byte, and an opcode that is not in the table. -/
theorem sampleWordsDecode : Obligations.SampleWordsDecode := by
  obtain ⟨⟨-, hnop⟩, -⟩ := nopAnswersZero
  obtain ⟨hpackSize, -⟩ := packSizeField
  have hreserved : ReservedOpcode (opOf 0x34000010#32).toNat := by
    unfold ReservedOpcode
    decide
  exact ⟨decode_of_encode_eq rfl rfl, decode_of_encode_eq rfl rfl, decode_of_encode_eq rfl rfl,
    decode_of_encode_eq rfl rfl, decode_of_encode_eq rfl rfl, decode_of_encode_eq rfl rfl,
    decode_of_encode_eq rfl rfl, decode_of_encode_eq rfl rfl,
    (hnop 0x00000001#32 rfl).2 (by decide), (hpackSize 0x29004000#32 rfl).2 (by decide),
    decode_bfx_past_the_byte, decode_of_not_mem_tableOpcodes _ (not_mem_tableOpcodes_of_reserved _ hreserved)⟩

end Sys2Proof
end
